-- ==== Sys2Proof/Word.lean ====
section
/-! DEFINITION. The word types of the machine (spec/00_scope.md R10, spec/30_encoding.md R57). -/

namespace Sys2Proof

/-- A machine word, 32 bits: registers, `pc`, ALU operands, memory words, instruction words (R9 `XLEN`, `ILEN`). -/
abbrev Word := BitVec 32

/-- One byte of data memory. -/
abbrev Byte := BitVec 8

/-- A general register index, 0 to 31 (R10). -/
abbrev RegIdx := BitVec 5

/-- A 7-bit major opcode, `w[6:0]` (R57). -/
abbrev Opcode := BitVec 7

end Sys2Proof
end

