-- ==== Sys2Proof/Config.lean ====
section
/-! DEFINITION. The implementation parameters of spec/00_scope.md R9, and the one uninterpreted function
that stands for an instantiation of `ALU_EXT` the spec does not fix. -/

namespace Sys2Proof

/-- How an effective address selects a data word (`DMEM_ADDR_MODE`, spec/20_memory.md R43). -/
inductive AddrMode where
  /-- The address is a byte address: index `ea[31:2]`, alignment required. -/
  | byte
  /-- The address is the word index itself, no alignment condition. -/
  | word
  deriving DecidableEq, Repr

/-- The class argument of `ALU_EXT` (spec/40_integer_compute.md R81). -/
inductive ExtClass where
  | op | opImm
  deriving DecidableEq, Repr

/-- Which function the parameter `ALU_EXT` is (R81, D5).
DESIGN CHOICE, safe (log 5): the parameter is a function, State is plain data, so State names the function. -/
inductive AluExt where
  /-- The default, `(a + b) mod 2^32`. -/
  | add
  /-- The standard RV32I table of spec/93_implementation_defined.md Part 3. -/
  | rv32i
  /-- Any other total pure function: `Config.aluExtOther`, about which nothing can be proved. -/
  | other
  deriving DecidableEq, Repr

/-- An instantiation of `ALU_EXT` other than the two the spec writes out (R81). It has no body, so a
statement that holds with it holds for every total function of the five arguments (log 5). -/
opaque Config.aluExtOther : ExtClass → BitVec 3 → BitVec 7 → Word → Word → Word

/-- The parameter record `cfg` of R9 and R108, plain data. It is constant from reset to the end of a run
(spec/10_state.md R21); the model keeps it inside State (log 2). -/
structure Cfg where
  /-- `FWD_EN`: the forwarding configuration (true) or the no-forwarding one (R2). -/
  fwdEn : Bool
  /-- `AUIPC_EN`: opcode 0x17 is AUIPC (true) or UNKNOWN (spec/30_encoding.md R68). -/
  auipcEn : Bool
  /-- `BR_INTERLOCK`: adds the Decode-operand interlock (spec/45_hazard_unit.md R124). -/
  brInterlock : Bool
  /-- `ALU_EXT` (R81). -/
  aluExt : AluExt
  /-- `IMEM`: the program, word `i` at byte address `4*i` (spec/20_memory.md R37). -/
  imem : List Word
  /-- `CYCLE_LIMIT` (spec/44_pipeline_latch_controller.md R119). -/
  cycleLimit : Nat
  /-- `DMEM_WORDS` (R42). -/
  dmemWords : Nat
  /-- `DMEM_INIT`: the reset contents of data memory, word by word; words beyond the list are 0 (D11). -/
  dmemInit : List Word
  /-- `DMEM_ADDR_MODE` (R43). -/
  dmemAddrMode : AddrMode
  /-- `RF_INIT` (spec/10_state.md R36, D10). -/
  rfInit : Vector Word 32
  /-- `RESET_PC` (R36, D9). -/
  resetPc : Word
  deriving DecidableEq, Repr

/-- The parameter values of the reset state: R9's defaults, and for the parameters R9 leaves to the caller
the values of the log. `fwdEn` DESIGN CHOICE (log 10), `imem` DESIGN CHOICE (log 11), `cycleLimit` DESIGN CHOICE
(log 12), `dmemWords` DESIGN CHOICE (log 13): each unsafe, so no statement rests on them. -/
def Cfg.default : Cfg where
  fwdEn := true
  auipcEn := true
  brInterlock := true
  aluExt := .add
  imem := []
  cycleLimit := 0
  dmemWords := 64
  dmemInit := []
  dmemAddrMode := .byte
  rfInit := Vector.replicate 32 0#32
  resetPc := 0#32

/-- What R9 and D11 ask of a parameter record: at least one data word, no more initial words than there are
data words, and `RF_INIT` with entry 0 equal to 0. -/
def Cfg.legal (cfg : Cfg) : Bool :=
  decide (1 ≤ cfg.dmemWords) && decide (cfg.dmemInit.length ≤ cfg.dmemWords) && cfg.rfInit[0] == 0#32

end Sys2Proof
end

