-- ==== Sys2Proof/Syntax.lean ====
section
/-! DEFINITION. The instructions, one constructor per row of spec/opcode_table.json. -/

namespace Sys2Proof

/-- The sixteen rows of the opcode table. Immediates are held as the bits the word carries:
`imm` of the I and S formats is the 12-bit value before extension (spec/30_encoding.md R60, R61);
`off` of the B and J formats is the number before doubling (R62, R63); `imm20` is `w[31:12]` (R64).
The rows `…Other` carry the function codes that their class does not name. -/
inductive Instr where
  | add (rd rs1 rs2 : RegIdx)
  | addi (rd rs1 : RegIdx) (imm : BitVec 12)
  | lw (rd rs1 : RegIdx) (imm : BitVec 12)
  | sw (rs1 rs2 : RegIdx) (imm : BitVec 12)
  | beq (rs1 rs2 : RegIdx) (off : BitVec 12)
  | jalr (rd rs1 : RegIdx) (imm : BitVec 12)
  | jal (rd : RegIdx) (off : BitVec 20)
  | lui (rd : RegIdx) (imm20 : BitVec 20)
  | auipc (rd : RegIdx) (imm20 : BitVec 20)
  | opOther (funct3 : BitVec 3) (funct7 : BitVec 7) (rd rs1 rs2 : RegIdx)
  | opimmOther (funct3 : BitVec 3) (rd rs1 : RegIdx) (imm : BitVec 12)
  | loadOther (funct3 : BitVec 3) (rd rs1 : RegIdx) (imm : BitVec 12)
  | storeOther (funct3 : BitVec 3) (rs1 rs2 : RegIdx) (imm : BitVec 12)
  | branchOther (funct3 : BitVec 3) (rs1 rs2 : RegIdx) (off : BitVec 12)
  | jalrOther (funct3 : BitVec 3) (rd rs1 : RegIdx) (imm : BitVec 12)
  | unknown (w : Word)
  deriving DecidableEq, Repr

/-- The class of an instruction word, decided by its opcode alone (R66). -/
inductive OpClass where
  | load | opImm | auipc | store | op | lui | branch | jalr | jal | unknown
  deriving DecidableEq, Repr

end Sys2Proof
end

