-- ==== Sys2Proof/Decode.lean ====
section
/-! DEFINITION. The decoder of spec/30_encoding.md (fields R57, immediates R60 to R64, classes R66 to R68)
and, after it, the encoder written from the format table R59. -/

namespace Sys2Proof

/-! ### Fields at fixed positions (R57) -/

/-- `opcode = w[6:0]`. -/
def opcodeField (w : Word) : Opcode := w.extractLsb' 0 7
/-- `rd = w[11:7]`. -/
def rdField (w : Word) : RegIdx := w.extractLsb' 7 5
/-- `funct3 = w[14:12]`. -/
def funct3Field (w : Word) : BitVec 3 := w.extractLsb' 12 3
/-- `rs1 = w[19:15]`. -/
def rs1Field (w : Word) : RegIdx := w.extractLsb' 15 5
/-- `rs2 = w[24:20]`. -/
def rs2Field (w : Word) : RegIdx := w.extractLsb' 20 5
/-- `funct7 = w[31:25]`. -/
def funct7Field (w : Word) : BitVec 7 := w.extractLsb' 25 7

/-! ### Immediate bits of each format, before extension -/

/-- I format: `w[31:20]` (R60). -/
def immIBits (w : Word) : BitVec 12 := w.extractLsb' 20 12
/-- S format: `{w[31:25], w[11:7]}` (R61). -/
def immSBits (w : Word) : BitVec 12 := w.extractLsb' 25 7 ++ w.extractLsb' 7 5
/-- B format: the twelve bits `{w[31], w[7], w[30:25], w[11:8]}`, before doubling (R62). -/
def immBBits (w : Word) : BitVec 12 :=
  w.extractLsb' 31 1 ++ w.extractLsb' 7 1 ++ w.extractLsb' 25 6 ++ w.extractLsb' 8 4
/-- J format: the twenty bits `{w[31], w[19:12], w[20], w[30:21]}`, before doubling (R63). -/
def immJBits (w : Word) : BitVec 20 :=
  w.extractLsb' 31 1 ++ w.extractLsb' 12 8 ++ w.extractLsb' 20 1 ++ w.extractLsb' 21 10
/-- U format: `w[31:12]` (R64). -/
def immUBits (w : Word) : BitVec 20 := w.extractLsb' 12 20

/-! ### Extended immediates -/

/-- `sext_12`, for the I and S formats (R60, R61). -/
def sext12 (v : BitVec 12) : Word := v.signExtend 32
/-- Double the twelve bits and sign-extend from bit 12 (R62). -/
def sextB (off : BitVec 12) : Word := (off ++ 0#1 : BitVec 13).signExtend 32
/-- Double the twenty bits and sign-extend from bit 20 (R63). -/
def sextJ (off : BitVec 20) : Word := (off ++ 0#1 : BitVec 21).signExtend 32
/-- `{imm20, 0x000}` (R64). -/
def immUpper (imm20 : BitVec 20) : Word := imm20 ++ 0#12

/-! ### The class of an opcode (R66, R68) -/

/-- The class map. Opcode 0x17 is AUIPC only when `AUIPC_EN` is true, else UNKNOWN (R68). -/
def classOf (auipcEn : Bool) (opcode : Opcode) : OpClass :=
  if opcode = 0x03#7 then .load
  else if opcode = 0x13#7 then .opImm
  else if opcode = 0x17#7 then (if auipcEn then .auipc else .unknown)
  else if opcode = 0x23#7 then .store
  else if opcode = 0x33#7 then .op
  else if opcode = 0x37#7 then .lui
  else if opcode = 0x63#7 then .branch
  else if opcode = 0x67#7 then .jalr
  else if opcode = 0x6F#7 then .jal
  else .unknown

/-- The immediate the decoder writes into `IDEX`, chosen by class (R65). -/
def immOf (c : OpClass) (w : Word) : Word :=
  match c with
  | .opImm | .load | .jalr => sext12 (immIBits w)
  | .store => sext12 (immSBits w)
  | .branch => sextB (immBBits w)
  | .jal => sextJ (immJBits w)
  | .lui | .auipc => immUpper (immUBits w)
  | .op | .unknown => 0#32

/-! ### The decoder -/

/-- The instruction a word is: total on all `2^32` words (R58, R74), the named row of a class before its
`…Other` row and UNKNOWN last, as the opcode table's priorities say (R67, R104). -/
def decode (auipcEn : Bool) (w : Word) : Instr :=
  match classOf auipcEn (opcodeField w) with
  | .op =>
    if funct3Field w = 0#3 ∧ funct7Field w = 0#7 then .add (rdField w) (rs1Field w) (rs2Field w)
    else .opOther (funct3Field w) (funct7Field w) (rdField w) (rs1Field w) (rs2Field w)
  | .opImm =>
    if funct3Field w = 0#3 then .addi (rdField w) (rs1Field w) (immIBits w)
    else .opimmOther (funct3Field w) (rdField w) (rs1Field w) (immIBits w)
  | .load =>
    if funct3Field w = 2#3 then .lw (rdField w) (rs1Field w) (immIBits w)
    else .loadOther (funct3Field w) (rdField w) (rs1Field w) (immIBits w)
  | .store =>
    if funct3Field w = 2#3 then .sw (rs1Field w) (rs2Field w) (immSBits w)
    else .storeOther (funct3Field w) (rs1Field w) (rs2Field w) (immSBits w)
  | .branch =>
    if funct3Field w = 0#3 then .beq (rs1Field w) (rs2Field w) (immBBits w)
    else .branchOther (funct3Field w) (rs1Field w) (rs2Field w) (immBBits w)
  | .jalr =>
    if funct3Field w = 0#3 then .jalr (rdField w) (rs1Field w) (immIBits w)
    else .jalrOther (funct3Field w) (rdField w) (rs1Field w) (immIBits w)
  | .jal => .jal (rdField w) (immJBits w)
  | .lui => .lui (rdField w) (immUBits w)
  | .auipc => .auipc (rdField w) (immUBits w)
  | .unknown => .unknown w

/-- Why a list of bytes holds no instruction. No 32-bit word is refused (R74): only a list that ends before
the fourth byte is. -/
inductive DecodeReject where
  /-- Fewer than four bytes: an instruction is exactly one 32-bit word (R56). -/
  | truncated
  deriving DecidableEq, Repr

/-- The decoder on bytes, lowest address first. The hardware has no byte view of instruction memory (R37);
the little-endian order is the one R47 prescribes where a model stores bytes (log 4). -/
def decodeBytes (auipcEn : Bool) : List Byte → Except DecodeReject (Instr × List Byte)
  | b0 :: b1 :: b2 :: b3 :: rest => .ok (decode auipcEn (b3 ++ b2 ++ b1 ++ b0), rest)
  | _ => .error .truncated

/-- The four bytes of a word, lowest address first (R47). -/
def wordBytes (w : Word) : List Byte :=
  [w.extractLsb' 0 8, w.extractLsb' 8 8, w.extractLsb' 16 8, w.extractLsb' 24 8]

/-- The instruction read from an opcode-table word of `nbits` bits, bits above `nbits` zero, with `AUIPC_EN`
at its default true (R9). -/
def decodeTableWord (nbits w : Nat) : Option Instr :=
  match decodeBytes true (wordBytes (BitVec.ofNat 32 (w % 2 ^ nbits))) with
  | .ok (i, _) => some i
  | .error _ => none

/-! ### The encoder (format table R59, function codes R67) -/

/-- R format: `funct7, rs2, rs1, funct3, rd, opcode`. -/
def encodeR (funct7 : BitVec 7) (rs2 rs1 : RegIdx) (funct3 : BitVec 3) (rd : RegIdx) (opcode : Opcode) : Word :=
  funct7 ++ rs2 ++ rs1 ++ funct3 ++ rd ++ opcode

/-- I format: `imm[11:0], rs1, funct3, rd, opcode`. -/
def encodeI (imm : BitVec 12) (rs1 : RegIdx) (funct3 : BitVec 3) (rd : RegIdx) (opcode : Opcode) : Word :=
  imm ++ rs1 ++ funct3 ++ rd ++ opcode

/-- S format: `imm[11:5], rs2, rs1, funct3, imm[4:0], opcode`. -/
def encodeS (imm : BitVec 12) (rs2 rs1 : RegIdx) (funct3 : BitVec 3) (opcode : Opcode) : Word :=
  imm.extractLsb' 5 7 ++ rs2 ++ rs1 ++ funct3 ++ imm.extractLsb' 0 5 ++ opcode

/-- B format: `imm[12], imm[10:5], rs2, rs1, funct3, imm[4:1], imm[11], opcode`, where `imm[k]` is `off[k-1]`. -/
def encodeB (off : BitVec 12) (rs2 rs1 : RegIdx) (funct3 : BitVec 3) (opcode : Opcode) : Word :=
  off.extractLsb' 11 1 ++ off.extractLsb' 4 6 ++ rs2 ++ rs1 ++ funct3 ++ off.extractLsb' 0 4
    ++ off.extractLsb' 10 1 ++ opcode

/-- U format: `imm[31:12], rd, opcode`. -/
def encodeU (imm20 : BitVec 20) (rd : RegIdx) (opcode : Opcode) : Word :=
  imm20 ++ rd ++ opcode

/-- J format: `imm[20], imm[10:1], imm[11], imm[19:12], rd, opcode`, where `imm[k]` is `off[k-1]`. -/
def encodeJ (off : BitVec 20) (rd : RegIdx) (opcode : Opcode) : Word :=
  off.extractLsb' 19 1 ++ off.extractLsb' 0 10 ++ off.extractLsb' 10 1 ++ off.extractLsb' 11 8 ++ rd ++ opcode

/-- The word of an instruction. -/
def encode : Instr → Word
  | .add rd rs1 rs2 => encodeR 0#7 rs2 rs1 0#3 rd 0x33#7
  | .addi rd rs1 imm => encodeI imm rs1 0#3 rd 0x13#7
  | .lw rd rs1 imm => encodeI imm rs1 2#3 rd 0x03#7
  | .sw rs1 rs2 imm => encodeS imm rs2 rs1 2#3 0x23#7
  | .beq rs1 rs2 off => encodeB off rs2 rs1 0#3 0x63#7
  | .jalr rd rs1 imm => encodeI imm rs1 0#3 rd 0x67#7
  | .jal rd off => encodeJ off rd 0x6F#7
  | .lui rd imm20 => encodeU imm20 rd 0x37#7
  | .auipc rd imm20 => encodeU imm20 rd 0x17#7
  | .opOther funct3 funct7 rd rs1 rs2 => encodeR funct7 rs2 rs1 funct3 rd 0x33#7
  | .opimmOther funct3 rd rs1 imm => encodeI imm rs1 funct3 rd 0x13#7
  | .loadOther funct3 rd rs1 imm => encodeI imm rs1 funct3 rd 0x03#7
  | .storeOther funct3 rs1 rs2 imm => encodeS imm rs2 rs1 funct3 0x23#7
  | .branchOther funct3 rs1 rs2 off => encodeB off rs2 rs1 funct3 0x63#7
  | .jalrOther funct3 rd rs1 imm => encodeI imm rs1 funct3 rd 0x67#7
  | .unknown w => w

end Sys2Proof
end

