-- ==== Sys2Proof/Machine/State.lean ====
section
/-! DEFINITION. The state of the machine as plain data (spec/10_state.md R13 to R36), the reasons a step stops,
the reset state (spec/70_reset_and_hazards.md R162), and the state of the sequential reference machine (R167). -/

namespace Sys2Proof.Machine

/-- The 32 general registers. Entry 0 is hard-wired: `readReg` and `writeReg` of Machine/Ops.lean are the one
place that says so (R14). -/
abbrev RegFile := Vector Word 32

/-- Data memory, as cells of one byte at a byte address: addresses strictly rising, no cell of value 0, an
address without a cell reads 0. Word `i` is the four bytes at `4*i`, little-endian (R47).
DESIGN CHOICE, unsafe (log 3): memory nothing has written reads the `DMEM_INIT` default, zero (D11).
DESIGN CHOICE, safe (log 4): bytes rather than words. -/
abbrev Memory := List Host.Cell

/-- The canonical form, checked from a lower bound: every address at least `lo`, strictly rising, no zero cell. -/
def Memory.wfFrom (lo : Nat) : Memory → Bool
  | [] => true
  | (k, b) :: rest => decide (lo ≤ k) && (b != 0#8) && Memory.wfFrom (k + 1) rest

/-- The canonical form of memory. -/
def Memory.wf (m : Memory) : Bool := Memory.wfFrom 0 m

/-- Memory holding the given bytes from address `a` on, in canonical form. -/
def Memory.ofBytes (a : Nat) : List Byte → Memory
  | [] => []
  | b :: rest => if b = 0#8 then Memory.ofBytes (a + 1) rest else (a, b) :: Memory.ofBytes (a + 1) rest

/-- The ALU's mode (spec/30_encoding.md R69, spec/40_integer_compute.md R77). -/
inductive AluMode where
  | add | compare
  deriving DecidableEq, Repr

/-- The control tuple, exactly seven signals (spec/30_encoding.md R69). -/
structure Ctrl where
  writesRegister : Bool
  readsMemory : Bool
  writesMemory : Bool
  aluUsesImmediate : Bool
  aluMode : AluMode
  resultIsMemoryData : Bool
  isControlFlow : Bool
  deriving DecidableEq, Repr

/-- Every signal false, `aluMode = Add`: the tuple of an invalid latch, a bubble and an UNKNOWN word (R26, R27, R70). -/
def Ctrl.allFalse : Ctrl := ⟨false, false, false, false, .add, false, false⟩

/-- Fetch→Decode (R28). -/
structure IfId where
  valid : Bool
  bubble : Bool
  pc : Word
  instr : Word
  deriving DecidableEq, Repr

/-- Decode→Execute (R29). -/
structure IdEx where
  valid : Bool
  bubble : Bool
  pc : Word
  opcode : Opcode
  rd : RegIdx
  rs1 : RegIdx
  rs2 : RegIdx
  funct3 : BitVec 3
  funct7 : BitVec 7
  imm : Word
  ctrl : Ctrl
  deriving DecidableEq, Repr

/-- Execute→Memory (R30). `isEqual` is written and read by nothing (R20, R79). -/
structure ExMem where
  valid : Bool
  bubble : Bool
  pc : Word
  rd : RegIdx
  ctrl : Ctrl
  aluResult : Word
  isEqual : Bool
  storeData : Word
  deriving DecidableEq, Repr

/-- Memory→Writeback (R31). -/
structure MemWb where
  valid : Bool
  bubble : Bool
  pc : Word
  rd : RegIdx
  ctrl : Ctrl
  aluResult : Word
  memData : Word
  deriving DecidableEq, Repr

/-- `INVALID` of the Fetch/Decode latch (R26). -/
def IfId.invalid : IfId := ⟨false, false, 0#32, 0#32⟩
/-- `INVALID` (R26). -/
def IdEx.invalid : IdEx := ⟨false, false, 0#32, 0#7, 0#5, 0#5, 0#5, 0#3, 0#7, 0#32, Ctrl.allFalse⟩
/-- `BUBBLE(p)` (R27). -/
def IdEx.bubbleAt (p : Word) : IdEx := ⟨true, true, p, 0#7, 0#5, 0#5, 0#5, 0#3, 0#7, 0#32, Ctrl.allFalse⟩
/-- `INVALID` (R26). -/
def ExMem.invalid : ExMem := ⟨false, false, 0#32, 0#5, Ctrl.allFalse, 0#32, false, 0#32⟩
/-- `BUBBLE(p)` (R27). -/
def ExMem.bubbleAt (p : Word) : ExMem := ⟨true, true, p, 0#5, Ctrl.allFalse, 0#32, false, 0#32⟩
/-- `INVALID` (R26). -/
def MemWb.invalid : MemWb := ⟨false, false, 0#32, 0#5, Ctrl.allFalse, 0#32, 0#32⟩
/-- `BUBBLE(p)` (R27). -/
def MemWb.bubbleAt (p : Word) : MemWb := ⟨true, true, p, 0#5, Ctrl.allFalse, 0#32, 0#32⟩

/-- `live(L)`: valid and not a bubble (R12, R25). -/
def IfId.live (l : IfId) : Bool := l.valid && !l.bubble
/-- `live(L)` (R12, R25). -/
def IdEx.live (l : IdEx) : Bool := l.valid && !l.bubble
/-- `live(L)` (R12, R25). -/
def ExMem.live (l : ExMem) : Bool := l.valid && !l.bubble
/-- `live(L)` (R12, R25). -/
def MemWb.live (l : MemWb) : Bool := l.valid && !l.bubble

/-- The three fatal errors (spec/60_exceptions.md R143). -/
inductive FatalCode where
  /-- Code 1 (R144): raised in MEM by a load or store whose word index is not below `DMEM_WORDS`. -/
  | dataOutOfBounds
  /-- Code 2 (R145): raised in MEM by a load or store whose byte address is not a multiple of 4, in byte mode. -/
  | misalignedData
  /-- Code 3 (R146): raised in IF by a fetch from an in-bounds `pc` that is not a multiple of 4. -/
  | misalignedFetch
  deriving DecidableEq, Repr

/-- The numbers of R143. -/
def FatalCode.number : FatalCode → Nat
  | .dataOutOfBounds => 1
  | .misalignedData => 2
  | .misalignedFetch => 3

/-- The record `{code, cycle, pc, addr}` that `halted` holds (R143). -/
structure FatalRecord where
  code : FatalCode
  cycle : Nat
  pc : Word
  addr : Word
  deriving DecidableEq, Repr

/-- The machine's state (R13), and with it the parameter record of R9 (log 2). -/
structure State where
  /-- The program counter (R18). -/
  pc : Word
  /-- The register file (R14). -/
  x : RegFile
  /-- The data memory (R42). -/
  dmem : Memory
  /-- The Fetch/Decode latch (R28). -/
  ifid : IfId
  /-- The Decode/Execute latch (R29). -/
  idex : IdEx
  /-- The Execute/Memory latch (R30). -/
  exmem : ExMem
  /-- The Memory/Writeback latch (R31). -/
  memwb : MemWb
  /-- Completed cycles (R34). -/
  cycle : Nat
  /-- The halt record (R34). -/
  halted : Option FatalRecord
  /-- The parameters (R9); no step changes them (R21). -/
  cfg : Cfg
  deriving DecidableEq, Repr

/-- Why a step gives no next state. -/
inductive Fault where
  /-- Raised by every step and every instruction on a halted state: `Cycle` is not defined there and `halted` is
  absorbing (spec/60_exceptions.md R147; spec/93_implementation_defined.md U15 `stuck`). Safe: the spec gives no next
  state. It carries the record of the fatal error that halted the machine. -/
  | halted (r : FatalRecord)
  deriving DecidableEq, Repr

/-- Why a step has no meaning. -/
inductive Refusal where
  /-- Raised by an arm of `exec` whose instruction has no meaning yet; every arm has one, so nothing raises it. Safe. -/
  | notModelled (mnemonic : String)
  deriving DecidableEq, Repr

/-- `Reset(cfg)`: every element at the value of R36 (R162). -/
def State.resetWith (cfg : Cfg) : State where
  pc := cfg.resetPc
  x := cfg.rfInit.set 0 0#32
  dmem := Memory.ofBytes 0 ((cfg.dmemInit.take cfg.dmemWords).flatMap wordBytes)
  ifid := IfId.invalid
  idex := IdEx.invalid
  exmem := ExMem.invalid
  memwb := MemWb.invalid
  cycle := 0
  halted := none
  cfg := cfg

/-- The machine right after reset, with the default parameters (R36; logs 9 to 13). -/
def State.reset : State := State.resetWith Cfg.default

/-- The state of the sequential reference machine: `(pc, x, dmem)` (spec/70_reset_and_hazards.md R167). -/
structure ArchState where
  pc : Word
  x : RegFile
  dmem : Memory
  deriving DecidableEq, Repr

/-- What one step of the sequential machine gives (R167). -/
inductive SeqOutcome where
  /-- The machine goes on. -/
  | running (a : ArchState)
  /-- `pc >=u 4*N`: the machine stops, with its final state. -/
  | stopped (a : ArchState)
  /-- A fatal error, with the address of the faulting instruction and the offending address. -/
  | fatal (code : FatalCode) (pc addr : Word)
  deriving DecidableEq, Repr

end Sys2Proof.Machine
end

