-- ==== Sys2Proof/Machine/Ops.lean ====
section
/-! DEFINITION. The named operations over registers and memories, the fetch primitive, and the fatal transition. -/

namespace Sys2Proof.Machine

/-! ### Registers (spec/10_state.md R14) -/

/-- `x[i]`: a read of `x[0]` returns 0. -/
def readReg (x : RegFile) (r : RegIdx) : Word :=
  if r = 0#5 then 0#32 else x[r.toNat]'r.isLt

/-- `x[i] <- v`: a write of `x[0]` is dropped. -/
def writeReg (x : RegFile) (r : RegIdx) (v : Word) : RegFile :=
  if r = 0#5 then x else x.set r.toNat v r.isLt

/-! ### Bytes and words of data memory (spec/20_memory.md R42, R47) -/

/-- The byte at an address; an address without a cell reads 0 (log 3). -/
def readByte : Memory → Nat → Byte
  | [], _ => 0#8
  | (k, b) :: rest, a => if k = a then b else readByte rest a

/-- The memory with one byte changed, in canonical form: writing 0 removes the cell. -/
def writeByte : Memory → Nat → Byte → Memory
  | [], a, v => if v = 0#8 then [] else [(a, v)]
  | (k, b) :: rest, a, v =>
    if a < k then (if v = 0#8 then (k, b) :: rest else (a, v) :: (k, b) :: rest)
    else if a = k then (if v = 0#8 then rest else (a, v) :: rest)
    else (k, b) :: writeByte rest a v

/-- `dmem[idx]`: the four bytes from `4*idx`, the lowest address holding bits 7 to 0 (R47). -/
def readWord (m : Memory) (idx : Nat) : Word :=
  readByte m (4 * idx + 3) ++ readByte m (4 * idx + 2) ++ readByte m (4 * idx + 1) ++ readByte m (4 * idx)

/-- `dmem[idx] <- v`, all 32 bits (R45). -/
def writeWord (m : Memory) (idx : Nat) (v : Word) : Memory :=
  writeByte (writeByte (writeByte (writeByte m (4 * idx) (v.extractLsb' 0 8))
    (4 * idx + 1) (v.extractLsb' 8 8)) (4 * idx + 2) (v.extractLsb' 16 8)) (4 * idx + 3) (v.extractLsb' 24 8)

/-! ### Data accesses (R43 to R48) -/

/-- The low two bits of an address are not `0b00`. -/
def misaligned (addr : Word) : Bool := addr.extractLsb' 0 2 != 0#2

/-- The word index of an effective address: `ea[31:2]` in byte mode, `ea` in word mode (R43). -/
def wordIndex (cfg : Cfg) (ea : Word) : Nat :=
  match cfg.dmemAddrMode with
  | .byte => ea.toNat / 4
  | .word => ea.toNat

/-- The checks of an access in their order: alignment first, in byte mode only, then bounds (R44, R45, R144, R145). -/
def accessError (cfg : Cfg) (ea : Word) : Option FatalCode :=
  if cfg.dmemAddrMode = .byte ∧ misaligned ea = true then some .misalignedData
  else if cfg.dmemWords ≤ wordIndex cfg ea then some .dataOutOfBounds
  else none

/-- `MemRead(ea, 4)` (R44). -/
def memRead (cfg : Cfg) (m : Memory) (ea : Word) : Except FatalCode Word :=
  match accessError cfg ea with
  | some code => .error code
  | none => .ok (readWord m (wordIndex cfg ea))

/-- `MemWrite(ea, 4, v)` (R45). -/
def memWrite (cfg : Cfg) (m : Memory) (ea v : Word) : Except FatalCode Memory :=
  match accessError cfg ea with
  | some code => .error code
  | none => .ok (writeWord m (wordIndex cfg ea) v)

/-! ### Instruction memory (R37 to R40) -/

/-- `addr <u 4*N` (R37). -/
def inBounds (cfg : Cfg) (addr : Word) : Bool := decide (addr.toNat < 4 * cfg.imem.length)

/-- `IMEM[addr[31:2]]`, the word `IFetch` returns where it is defined (R38). -/
def imemWord (cfg : Cfg) (addr : Word) : Word := cfg.imem.getD (addr.toNat / 4) 0#32

/-- What a fetch from an address gives (R38 to R40). -/
inductive FetchResult where
  /-- The word at an in-bounds aligned address (R38). -/
  | word (w : Word)
  /-- Out of bounds: no error (R39). -/
  | outside
  /-- In bounds and misaligned (R40). -/
  | misaligned
  deriving DecidableEq, Repr

/-- `IFetch(addr)`, the bounds test before the alignment test (R38, D14). -/
def ifetch (cfg : Cfg) (addr : Word) : FetchResult :=
  if inBounds cfg addr then (if misaligned addr then .misaligned else .word (imemWord cfg addr)) else .outside

/-! ### The fatal transition (spec/60_exceptions.md R147) -/

/-- The halted state of a fatal error raised in the cycle that starts at `s`: `x` and `dmem` as the stages
already evaluated left them, the record set, everything else as in `s`. -/
def raiseFatal (s : State) (x : RegFile) (dmem : Memory) (code : FatalCode) (pc addr : Word) : State :=
  { s with x := x, dmem := dmem, halted := some ⟨code, s.cycle + 1, pc, addr⟩ }

end Sys2Proof.Machine
end

