-- ==== Sys2Proof/Machine/Flags.lean ====
section
/-! DEFINITION. The machine has no status flags, condition codes or carry (spec/10_state.md R20). Its only flag-like
values are two comparison outcomes: the ALU's `isEqual`, which nothing reads (spec/40_integer_compute.md R79), and the
branch comparator of Decode (spec/47_branch_redirect.md R136). -/

namespace Sys2Proof.Machine

/-- Equality of all 32 bits (R10). -/
def wordsEqual (a b : Word) : Bool := a == b

/-- The ALU's `isEqual` output: the comparison in `Compare` mode, 0 in `Add` mode (R78, R79). -/
def isEqualOut (mode : AluMode) (operand1 operand2 : Word) : Bool :=
  match mode with
  | .add => false
  | .compare => wordsEqual operand1 operand2

/-- The comparator of Decode: a branch is taken iff its two operands are equal (R136). -/
def branchTaken (a b : Word) : Bool := wordsEqual a b

end Sys2Proof.Machine
end

