-- ==== Sys2Proof/Machine/Alu.lean ====
section
/-! DEFINITION. The ALU (spec/40_integer_compute.md R77 to R80) and the parameter `ALU_EXT` (R81). -/

namespace Sys2Proof.Machine

/-- The ALU's `result`: the wrapping sum in `Add` mode, 0 in `Compare` mode (R78, R79). -/
def aluResultOut (mode : AluMode) (operand1 operand2 : Word) : Word :=
  match mode with
  | .add => operand1 + operand2
  | .compare => 0#32

/-- `execute(operand1, operand2, mode) -> (result, isEqual)` (R77). -/
def aluExecute (operand1 operand2 : Word) (mode : AluMode) : Word × Bool :=
  (aluResultOut mode operand1 operand2, isEqualOut mode operand1 operand2)

/-- A truth value as a word, 1 or 0. -/
def boolWord (b : Bool) : Word := if b then 1#32 else 0#32

/-- A shift amount, `b[4:0]`. -/
def shiftAmount (b : Word) : Nat := (b.extractLsb' 0 5).toNat

/-- Class OP rows of the standard table (spec/93_implementation_defined.md Part 3); a pair without a row adds. -/
def rv32iOp (funct3 : BitVec 3) (funct7 : BitVec 7) (a b : Word) : Word :=
  if funct3 = 0#3 ∧ funct7 = 0x20#7 then a - b
  else if funct3 = 1#3 ∧ funct7 = 0#7 then a <<< shiftAmount b
  else if funct3 = 2#3 ∧ funct7 = 0#7 then boolWord (a.slt b)
  else if funct3 = 3#3 ∧ funct7 = 0#7 then boolWord (a.ult b)
  else if funct3 = 4#3 ∧ funct7 = 0#7 then a ^^^ b
  else if funct3 = 5#3 ∧ funct7 = 0#7 then a >>> shiftAmount b
  else if funct3 = 5#3 ∧ funct7 = 0x20#7 then a.sshiftRight (shiftAmount b)
  else if funct3 = 6#3 ∧ funct7 = 0#7 then a ||| b
  else if funct3 = 7#3 ∧ funct7 = 0#7 then a &&& b
  else a + b

/-- Class OP-IMM rows of the same table; `b` is the sign-extended immediate; a pair without a row adds. -/
def rv32iOpImm (funct3 : BitVec 3) (funct7 : BitVec 7) (a b : Word) : Word :=
  if funct3 = 1#3 ∧ funct7 = 0#7 then a <<< shiftAmount b
  else if funct3 = 2#3 then boolWord (a.slt b)
  else if funct3 = 3#3 then boolWord (a.ult b)
  else if funct3 = 4#3 then a ^^^ b
  else if funct3 = 5#3 ∧ funct7 = 0#7 then a >>> shiftAmount b
  else if funct3 = 5#3 ∧ funct7 = 0x20#7 then a.sshiftRight (shiftAmount b)
  else if funct3 = 6#3 then a ||| b
  else if funct3 = 7#3 then a &&& b
  else a + b

/-- `ALU_EXT(class, funct3, funct7, a, b)`, the function the parameter record names (R81, log 5). -/
def aluExt (cfg : Cfg) (c : ExtClass) (funct3 : BitVec 3) (funct7 : BitVec 7) (a b : Word) : Word :=
  match cfg.aluExt with
  | .add => a + b
  | .rv32i =>
    match c with
    | .op => rv32iOp funct3 funct7 a b
    | .opImm => rv32iOpImm funct3 funct7 a b
  | .other => Config.aluExtOther c funct3 funct7 a b

end Sys2Proof.Machine
end

