-- ==== Sys2Proof/Machine/Control.lean ====
section
/-! DEFINITION. What the decoder hands to the pipeline: the control tuple of each class (spec/30_encoding.md R69, R70),
the register-usage predicates (R71 to R73) and the decode record (R58). -/

namespace Sys2Proof.Machine

/-- The control tuple of a class (R70). -/
def ctrlOf : OpClass → Ctrl
  | .op => ⟨true, false, false, false, .add, false, false⟩
  | .opImm => ⟨true, false, false, true, .add, false, false⟩
  | .load => ⟨true, true, false, true, .add, true, false⟩
  | .store => ⟨false, false, true, true, .add, false, false⟩
  | .branch => ⟨false, false, false, false, .compare, false, true⟩
  | .jal => ⟨true, false, false, true, .add, false, true⟩
  | .jalr => ⟨true, false, false, true, .add, false, true⟩
  | .lui => ⟨true, false, false, true, .add, false, false⟩
  | .auipc => ⟨true, false, false, true, .add, false, false⟩
  | .unknown => Ctrl.allFalse

/-- `usesRs1`: every opcode but LUI, AUIPC and JAL, the UNKNOWN ones included; `AUIPC_EN` plays no part (R68, R71). -/
def usesRs1 (opcode : Opcode) : Bool := !(opcode == 0x37#7 || opcode == 0x17#7 || opcode == 0x6F#7)

/-- `usesRs2`: exactly OP, BRANCH and STORE (R72). -/
def usesRs2 (opcode : Opcode) : Bool := opcode == 0x33#7 || opcode == 0x63#7 || opcode == 0x23#7

/-- `decode(word) -> (opcode, rd, rs1, rs2, funct3, funct7, imm, ctrl)`: what Decode writes into `IDEX` (R29, R58).
The fields hold the raw bits at their positions, whether or not the class uses them. -/
structure Dec where
  opcode : Opcode
  rd : RegIdx
  rs1 : RegIdx
  rs2 : RegIdx
  funct3 : BitVec 3
  funct7 : BitVec 7
  imm : Word
  ctrl : Ctrl
  deriving DecidableEq, Repr

/-- The decode record read straight from a word (R57, R58, R65, R70). -/
def decOfWord (auipcEn : Bool) (w : Word) : Dec where
  opcode := opcodeField w
  rd := rdField w
  rs1 := rs1Field w
  rs2 := rs2Field w
  funct3 := funct3Field w
  funct7 := funct7Field w
  imm := immOf (classOf auipcEn (opcodeField w)) w
  ctrl := ctrlOf (classOf auipcEn (opcodeField w))

/-- `r != 0 and ((usesRs1(opcode) and rs1 == r) or (usesRs2(opcode) and rs2 == r))` (R73). -/
def readsReg (opcode : Opcode) (rs1 rs2 r : RegIdx) : Bool :=
  (r != 0#5) && ((usesRs1 opcode && rs1 == r) || (usesRs2 opcode && rs2 == r))

/-- `reads(D, r)` of a decode record (R73). -/
def Dec.reads (d : Dec) (r : RegIdx) : Bool := readsReg d.opcode d.rs1 d.rs2 r

/-- The live `IDEX` latch Decode writes for an instruction at address `p` (R113). -/
def Dec.latch (d : Dec) (p : Word) : IdEx :=
  ⟨true, false, p, d.opcode, d.rd, d.rs1, d.rs2, d.funct3, d.funct7, d.imm, d.ctrl⟩

end Sys2Proof.Machine
end

