-- ==== Sys2Proof/Machine/Operands.lean ====
section
/-! DEFINITION. Where operands come from: the forwarding multiplexer (spec/46_forwarding_unit.md R129 to R131) and the
operand table of Execute (spec/40_integer_compute.md R82). -/

namespace Sys2Proof.Machine

/-- The selected result of the Memory/Writeback latch (spec/10_state.md R31). -/
def selectedResult (w : MemWb) : Word := if w.ctrl.resultIsMemoryData then w.memData else w.aluResult

/-- The Execute/Memory latch supplies register `r`: the condition of case (1), `mE` of R134 (R129). -/
def matchesExMem (r : RegIdx) (m : ExMem) : Bool :=
  (r != 0#5) && m.live && m.ctrl.writesRegister && m.rd == r

/-- The Memory/Writeback latch supplies register `r`: the condition of case (2), `mW` of R134 (R129). -/
def matchesMemWb (r : RegIdx) (w : MemWb) : Bool :=
  (r != 0#5) && w.live && w.ctrl.writesRegister && w.rd == r

/-- `FwdSelect(r, EXMEM, MEMWB, x)`: strict priority (R129). -/
def fwdSelect (r : RegIdx) (m : ExMem) (w : MemWb) (x : RegFile) : Word :=
  if matchesExMem r m then m.aluResult
  else if matchesMemWb r w then selectedResult w
  else readReg x r

/-- `Operand(cfg, r, EXMEM, MEMWB, x)`; `x` is the register file after this cycle's Writeback (R130, R131). -/
def operand (cfg : Cfg) (r : RegIdx) (m : ExMem) (w : MemWb) (x : RegFile) : Word :=
  if cfg.fwdEn then fwdSelect r m w x else readReg x r

/-- The two ALU operands and the mode, by class (R82). -/
def aluOperands (c : OpClass) (pc imm v1 v2 : Word) : Word × Word × AluMode :=
  match c with
  | .op => (v1, v2, .add)
  | .opImm => (v1, imm, .add)
  | .load => (v1, imm, .add)
  | .store => (v1, imm, .add)
  | .branch => (v1, v2, .compare)
  | .jal => (pc, 4#32, .add)
  | .jalr => (pc, 4#32, .add)
  | .lui => (0#32, imm, .add)
  | .auipc => (pc, imm, .add)
  | .unknown => (0#32, 0#32, .add)

/-- The function codes `ALU_EXT` answers for: OP with `(funct3, funct7) != (0, 0)`, OP-IMM with `funct3 != 0` (R81). -/
def extClassOf (c : OpClass) (funct3 : BitVec 3) (funct7 : BitVec 7) : Option ExtClass :=
  match c with
  | .op => if funct3 = 0#3 ∧ funct7 = 0#7 then none else some .op
  | .opImm => if funct3 = 0#3 then none else some .opImm
  | _ => none

/-- `(aluResult, isEqual)` of the instruction in Execute, from its resolved operands (R81, R82). -/
def exResult (cfg : Cfg) (e : IdEx) (v1 v2 : Word) : Word × Bool :=
  let c := classOf cfg.auipcEn e.opcode
  let ops := aluOperands c e.pc e.imm v1 v2
  match extClassOf c e.funct3 e.funct7 with
  | some k => (aluExt cfg k e.funct3 e.funct7 ops.1 ops.2.1, false)
  | none => aluExecute ops.1 ops.2.1 ops.2.2

/-- The live `EXMEM` latch of an instruction in Execute; `storeData` is the resolved `rs2` of every class (R82, R112). -/
def exLatch (cfg : Cfg) (e : IdEx) (v1 v2 : Word) : ExMem :=
  ⟨true, false, e.pc, e.rd, e.ctrl, (exResult cfg e v1 v2).1, (exResult cfg e v1 v2).2, v2⟩

end Sys2Proof.Machine
end

