-- ==== Sys2Proof/Machine/Branch.lean ====
section
/-! DEFINITION. Branch resolution in Decode and the pc multiplexer (spec/47_branch_redirect.md R135 to R140). -/

namespace Sys2Proof.Machine

/-- Bit 0 cleared: `v & 0xFFFFFFFE` (spec/42_control_transfer.md R102). -/
def clearBit0 (v : Word) : Word := v &&& 0xFFFFFFFE#32

/-- `Resolve`: the outcome and the target of a control-flow instruction at `pcD`, from its resolved operand
values (R136). Classes other than BRANCH, JAL and JALR are never resolved; they answer not taken. -/
def resolveWith (c : OpClass) (pcD imm a b : Word) : Bool × Word :=
  match c with
  | .branch => (branchTaken a b, pcD + imm)
  | .jal => (true, pcD + imm)
  | .jalr => (true, clearBit0 (a + imm))
  | _ => (false, pcD + 4#32)

/-- `Resolve(cfg, dec, pcD, EXMEM, MEMWB, x)` with the operands of R135. -/
def resolve (cfg : Cfg) (d : Dec) (pcD : Word) (m : ExMem) (w : MemWb) (x : RegFile) : Bool × Word :=
  resolveWith (classOf cfg.auipcEn d.opcode) pcD d.imm (operand cfg d.rs1 m w x) (operand cfg d.rs2 m w x)

/-- `redirect = taken ? target : IFID.pc + 4` (R113, R140). -/
def redirectOf (outcome : Bool × Word) (pcD : Word) : Word := if outcome.1 then outcome.2 else pcD + 4#32

/-- The pc multiplexer, in its priority order (R140). -/
def nextPc (cfg : Cfg) (flush stall : Bool) (redirect pc : Word) : Word :=
  if flush then redirect else if stall then pc else if inBounds cfg pc then pc + 4#32 else pc

end Sys2Proof.Machine
end

