-- ==== Sys2Proof/Machine/Arch.lean ====
section
/-! DEFINITION. What the instruction families share: the decode record of each format (spec/30_encoding.md R57 to R65)
and the operations the architectural-effect lines are written with (spec/40_integer_compute.md, template). -/

namespace Sys2Proof.Machine

/-! ### Decode records by format: every raw field at its position (R57, R58) -/

/-- R format, no immediate (R65). -/
def decR (c : OpClass) (opcode : Opcode) (funct3 : BitVec 3) (funct7 : BitVec 7) (rd rs1 rs2 : RegIdx) : Dec :=
  ⟨opcode, rd, rs1, rs2, funct3, funct7, 0#32, ctrlOf c⟩

/-- I format: the `rs2` and `funct7` positions hold immediate bits (R60). -/
def decI (c : OpClass) (opcode : Opcode) (funct3 : BitVec 3) (rd rs1 : RegIdx) (imm : BitVec 12) : Dec :=
  ⟨opcode, rd, rs1, imm.extractLsb' 0 5, funct3, imm.extractLsb' 5 7, sext12 imm, ctrlOf c⟩

/-- S format: the `rd` and `funct7` positions hold immediate bits (R61). -/
def decS (c : OpClass) (opcode : Opcode) (funct3 : BitVec 3) (rs1 rs2 : RegIdx) (imm : BitVec 12) : Dec :=
  ⟨opcode, imm.extractLsb' 0 5, rs1, rs2, funct3, imm.extractLsb' 5 7, sext12 imm, ctrlOf c⟩

/-- B format: `rd` holds `imm[4:1], imm[11]` and `funct7` holds `imm[12], imm[10:5]` (R62). -/
def decB (c : OpClass) (opcode : Opcode) (funct3 : BitVec 3) (rs1 rs2 : RegIdx) (off : BitVec 12) : Dec :=
  ⟨opcode, off.extractLsb' 0 4 ++ off.extractLsb' 10 1, rs1, rs2, funct3,
    off.extractLsb' 11 1 ++ off.extractLsb' 4 6, sextB off, ctrlOf c⟩

/-- U format: `funct3`, `rs1`, `rs2`, `funct7` hold immediate bits (R64). The class is a parameter because opcode
0x17 is UNKNOWN without `AUIPC_EN` (R68); an UNKNOWN word has the immediate 0 (R65). -/
def decU (c : OpClass) (opcode : Opcode) (rd : RegIdx) (imm20 : BitVec 20) : Dec :=
  ⟨opcode, rd, imm20.extractLsb' 3 5, imm20.extractLsb' 8 5, imm20.extractLsb' 0 3, imm20.extractLsb' 13 7,
    (if c = .unknown then 0#32 else immUpper imm20), ctrlOf c⟩

/-- J format: bits 31:12 hold `imm[20], imm[10:1], imm[11], imm[19:12]` (R63). -/
def decJ (c : OpClass) (opcode : Opcode) (rd : RegIdx) (off : BitVec 20) : Dec :=
  ⟨opcode, rd, off.extractLsb' 14 5, off.extractLsb' 0 4 ++ off.extractLsb' 10 1, off.extractLsb' 11 3,
    off.extractLsb' 19 1 ++ off.extractLsb' 4 6, sextJ off, ctrlOf c⟩

/-! ### Architectural effects (R167) -/

/-- `x[rd] <- v; pc <- pc + 4`. -/
def archWrite (a : ArchState) (rd : RegIdx) (v : Word) : SeqOutcome :=
  .running { a with pc := a.pc + 4#32, x := writeReg a.x rd v }

/-- `pc <- pc + 4`, nothing else. -/
def archSkip (a : ArchState) : SeqOutcome := .running { a with pc := a.pc + 4#32 }

/-- `x[rd] <- MemRead(ea, 4); pc <- pc + 4`, or the fatal error of the access (spec/41_load_store.md R90). -/
def archLoad (cfg : Cfg) (a : ArchState) (rd : RegIdx) (ea : Word) : SeqOutcome :=
  match memRead cfg a.dmem ea with
  | .error code => .fatal code a.pc ea
  | .ok v => archWrite a rd v

/-- `MemWrite(ea, 4, v); pc <- pc + 4`, or the fatal error of the access (R92). -/
def archStore (cfg : Cfg) (a : ArchState) (ea v : Word) : SeqOutcome :=
  match memWrite cfg a.dmem ea v with
  | .error code => .fatal code a.pc ea
  | .ok dmem => .running { a with pc := a.pc + 4#32, dmem := dmem }

/-- `if x[rs1] == x[rs2] then pc <- pc + off else pc <- pc + 4` (spec/42_control_transfer.md R99). -/
def archBranch (a : ArchState) (rs1 rs2 : RegIdx) (offset : Word) : SeqOutcome :=
  .running { a with pc := if branchTaken (readReg a.x rs1) (readReg a.x rs2) then a.pc + offset else a.pc + 4#32 }

/-- `x[rd] <- pc + 4; pc <- target`, the target computed before the write (R101, R102). -/
def archJump (a : ArchState) (rd : RegIdx) (target : Word) : SeqOutcome :=
  .running { a with pc := target, x := writeReg a.x rd (a.pc + 4#32) }

end Sys2Proof.Machine
end

