-- ==== Sys2Proof/Machine/Hazard.lean ====
section
/-! DEFINITION. The hazard detection and interlock unit (spec/45_hazard_unit.md R122 to R125). -/

namespace Sys2Proof.Machine

/-- `HzFwd`: a live load in `IDEX` whose destination the word in Decode reads (R123). -/
def hzFwd (d : Dec) (e : IdEx) : Bool :=
  e.live && e.ctrl.readsMemory && d.reads e.rd

/-- `HzBranch`: the Decode-operand interlock, for BRANCH and JALR only (R124). -/
def hzBranch (cfg : Cfg) (d : Dec) (e : IdEx) (m : ExMem) : Bool :=
  cfg.brInterlock && (d.opcode == 0x63#7 || d.opcode == 0x67#7) &&
    ((e.live && e.ctrl.writesRegister && d.reads e.rd) ||
      (m.live && m.ctrl.readsMemory && m.ctrl.writesRegister && d.reads m.rd))

/-- `HzNoFwd`: any live register writer in `IDEX` or `EXMEM` whose destination the word in Decode reads (R125). -/
def hzNoFwd (d : Dec) (e : IdEx) (m : ExMem) : Bool :=
  (e.live && e.ctrl.writesRegister && d.reads e.rd) || (m.live && m.ctrl.writesRegister && d.reads m.rd)

/-- `Hazard(cfg, dec, IDEX, EXMEM)`, the wire `stall` of a live `IFID` (R122). -/
def hazard (cfg : Cfg) (d : Dec) (e : IdEx) (m : ExMem) : Bool :=
  if cfg.fwdEn then hzFwd d e || hzBranch cfg d e m else hzNoFwd d e m

end Sys2Proof.Machine
end

