-- ==== Sys2Proof/Machine/Stages.lean ====
section
/-! DEFINITION. The five stage updates and the clock cycle (spec/44_pipeline_latch_controller.md R108 to R116).
A cycle is written once, over what Decode puts out; `issue` is the cycle whose Decode holds a live instruction. -/

namespace Sys2Proof.Machine

/-- Stage 1, Writeback: the register file after the commit (R110). -/
def writebackStage (w : MemWb) (x : RegFile) : RegFile :=
  if w.live && w.ctrl.writesRegister && (w.rd != 0#5) then writeReg x w.rd (selectedResult w) else x

/-- The read of a live instruction in MEM: the word loaded, 0 if it reads nothing (R111). -/
def loadOf (cfg : Cfg) (m : ExMem) (dmem : Memory) : Except FatalCode Word :=
  if m.ctrl.readsMemory then memRead cfg dmem m.aluResult else .ok 0

/-- The write of a live instruction in MEM (R111). -/
def storeOf (cfg : Cfg) (m : ExMem) (dmem : Memory) : Except FatalCode Memory :=
  if m.ctrl.writesMemory then memWrite cfg dmem m.aluResult m.storeData else .ok dmem

/-- Stage 2, Memory: the next `MEMWB` and the data memory, or a fatal error (R111). -/
def memoryStage (cfg : Cfg) (m : ExMem) (dmem : Memory) : Except FatalCode (MemWb × Memory) :=
  if m.valid = false then .ok (MemWb.invalid, dmem)
  else if m.bubble then .ok (MemWb.bubbleAt m.pc, dmem)
  else
    match loadOf cfg m dmem with
    | .error code => .error code
    | .ok d =>
      match storeOf cfg m dmem with
      | .error code => .error code
      | .ok dmem' => .ok (⟨true, false, m.pc, m.rd, m.ctrl, m.aluResult, d⟩, dmem')

/-- Stage 3, Execute: the next `EXMEM`; `x` is the register file after Writeback (R112). -/
def executeStage (cfg : Cfg) (e : IdEx) (m : ExMem) (w : MemWb) (x : RegFile) : ExMem :=
  if e.valid = false then ExMem.invalid
  else if e.bubble then ExMem.bubbleAt e.pc
  else
    exLatch cfg e (if usesRs1 e.opcode then operand cfg e.rs1 m w x else 0#32)
      (if usesRs2 e.opcode then operand cfg e.rs2 m w x else 0#32)

/-- What Decode puts out: the next `IDEX` and the wires `stall`, `flush`, `redirect` (R33, R113). -/
structure DecodeOut where
  idex : IdEx
  stall : Bool
  flush : Bool
  redirect : Word
  deriving DecidableEq, Repr

/-- Stage 4, Decode, of an invalid latch or a bubble: no stall, no flush (R113). -/
def decodeIdle (l : IfId) : DecodeOut :=
  if l.valid = false then ⟨IdEx.invalid, false, false, 0#32⟩ else ⟨IdEx.bubbleAt l.pc, false, false, 0#32⟩

/-- Stage 4, Decode, of a live latch at address `pcD` whose word decodes to `d` (R113). -/
def decodeLive (s : State) (d : Dec) (x : RegFile) : DecodeOut :=
  if hazard s.cfg d s.idex s.exmem then ⟨IdEx.bubbleAt s.ifid.pc, true, false, 0#32⟩
  else if d.ctrl.isControlFlow then
    ⟨d.latch s.ifid.pc, false, true, redirectOf (resolve s.cfg d s.ifid.pc s.exmem s.memwb x) s.ifid.pc⟩
  else ⟨d.latch s.ifid.pc, false, false, 0#32⟩

/-- Stage 5, Fetch: the next `IFID` and `pc`, or `none` for a misaligned fetch (R114, R137, R138, R140). -/
def fetchStage (s : State) (o : DecodeOut) : Option (IfId × Word) :=
  if o.stall && !o.flush then some (s.ifid, s.pc)
  else
    match ifetch s.cfg s.pc with
    | .misaligned => none
    | .outside => some (IfId.invalid, nextPc s.cfg o.flush o.stall o.redirect s.pc)
    | .word w => some (⟨true, o.flush, s.pc, w⟩, nextPc s.cfg o.flush o.stall o.redirect s.pc)

/-- End of cycle: every latch replaced whole, `pc`, `x` and `dmem` at their next values, one more cycle completed (R115). -/
def commitCycle (s : State) (pc : Word) (x : RegFile) (dmem : Memory) (ifid : IfId) (idex : IdEx) (exmem : ExMem)
    (memwb : MemWb) : State :=
  { s with
    pc := pc, x := x, dmem := dmem, ifid := ifid, idex := idex, exmem := exmem, memwb := memwb, cycle := s.cycle + 1 }

/-- The state after the stages WB and MEM succeeded, given what Decode puts out: EX, IF and the commit of R115,
or the fatal transition of a misaligned fetch (R146, R147). -/
def finishCycle (s : State) (x : RegFile) (memwb : MemWb) (dmem : Memory) (o : DecodeOut) : State :=
  match fetchStage s o with
  | none => raiseFatal s x dmem .misalignedFetch s.pc s.pc
  | some (ifid, pc) =>
    commitCycle s pc x dmem ifid o.idex (executeStage s.cfg s.idex s.exmem s.memwb x) memwb

/-- One clock cycle, given what Decode puts out once the register file is written (R108, R116). A fatal error is a
next state, the halted one of R147; a halted state has none. -/
def cycleWith (s : State) (decodeOut : RegFile → DecodeOut) : Host.Outcome State Fault Refusal :=
  match s.halted with
  | some r => .fault (.halted r)
  | none =>
    let x := writebackStage s.memwb s.x
    match memoryStage s.cfg s.exmem s.dmem with
    | .error code => .next (raiseFatal s x s.dmem code s.exmem.pc s.exmem.aluResult)
    | .ok (memwb, dmem) => .next (finishCycle s x memwb dmem (decodeOut x))

/-- The clock cycle in which Decode holds the live instruction whose decode record is `d`, at address `s.ifid.pc`. -/
def issue (s : State) (d : Dec) : Host.Outcome State Fault Refusal :=
  cycleWith s (fun x => decodeLive s d x)

/-- The clock cycle in which Decode holds no instruction: `IFID` is invalid or a bubble. -/
def idleCycle (s : State) : Host.Outcome State Fault Refusal :=
  cycleWith s (fun _ => decodeIdle s.ifid)

end Sys2Proof.Machine
end

