-- ==== Sys2Proof/Machine/ControlTransfer.lean ====
section
/-! DEFINITION. Classes BRANCH, JAL and JALR (spec/42_control_transfer.md R95 to R103): `dec…`, `arch…` and `exec…` as in
Machine/IntegerCompute.lean. Resolution, flush and redirect happen in the cycle `exec…` gives (R135 to R140). -/

namespace Sys2Proof.Machine

/-- BEQ (R99). -/
def decBeq (rs1 rs2 : RegIdx) (off : BitVec 12) : Dec := decB .branch 0x63#7 0#3 rs1 rs2 off
/-- `if x[rs1] == x[rs2] then pc <- pc + imm_b else pc <- pc + 4` (R99). -/
def archBeq (rs1 rs2 : RegIdx) (off : BitVec 12) (a : ArchState) : SeqOutcome := archBranch a rs1 rs2 (sextB off)
/-- BEQ in Decode (R99, R113). -/
def execBeq (rs1 rs2 : RegIdx) (off : BitVec 12) (s : State) : Host.Outcome State Fault Refusal :=
  issue s (decBeq rs1 rs2 off)

/-- Class BRANCH with another `funct3`, which is ignored (R100). -/
def decBranchOther (funct3 : BitVec 3) (rs1 rs2 : RegIdx) (off : BitVec 12) : Dec :=
  decB .branch 0x63#7 funct3 rs1 rs2 off
/-- The effect of BEQ (R100). -/
def archBranchOther (_funct3 : BitVec 3) (rs1 rs2 : RegIdx) (off : BitVec 12) (a : ArchState) : SeqOutcome :=
  archBranch a rs1 rs2 (sextB off)
/-- Class BRANCH with another `funct3` in Decode (R100, R113). -/
def execBranchOther (funct3 : BitVec 3) (rs1 rs2 : RegIdx) (off : BitVec 12) (s : State) :
    Host.Outcome State Fault Refusal :=
  issue s (decBranchOther funct3 rs1 rs2 off)

/-- JAL (R101). -/
def decJal (rd : RegIdx) (off : BitVec 20) : Dec := decJ .jal 0x6F#7 rd off
/-- `x[rd] <- pc + 4; pc <- pc + imm_j` (R101). -/
def archJal (rd : RegIdx) (off : BitVec 20) (a : ArchState) : SeqOutcome := archJump a rd (a.pc + sextJ off)
/-- JAL in Decode (R101, R113). -/
def execJal (rd : RegIdx) (off : BitVec 20) (s : State) : Host.Outcome State Fault Refusal :=
  issue s (decJal rd off)

/-- JALR (R102). -/
def decJalr (rd rs1 : RegIdx) (imm : BitVec 12) : Dec := decI .jalr 0x67#7 0#3 rd rs1 imm
/-- `t = (x[rs1] + imm_i) & 0xFFFFFFFE; x[rd] <- pc + 4; pc <- t` (R102). -/
def archJalr (rd rs1 : RegIdx) (imm : BitVec 12) (a : ArchState) : SeqOutcome :=
  archJump a rd (clearBit0 (readReg a.x rs1 + sext12 imm))
/-- JALR in Decode (R102, R113). -/
def execJalr (rd rs1 : RegIdx) (imm : BitVec 12) (s : State) : Host.Outcome State Fault Refusal :=
  issue s (decJalr rd rs1 imm)

/-- Class JALR with another `funct3`, which is ignored (R103). -/
def decJalrOther (funct3 : BitVec 3) (rd rs1 : RegIdx) (imm : BitVec 12) : Dec := decI .jalr 0x67#7 funct3 rd rs1 imm
/-- The effect of JALR (R103). -/
def archJalrOther (_funct3 : BitVec 3) (rd rs1 : RegIdx) (imm : BitVec 12) (a : ArchState) : SeqOutcome :=
  archJump a rd (clearBit0 (readReg a.x rs1 + sext12 imm))
/-- Class JALR with another `funct3` in Decode (R103, R113). -/
def execJalrOther (funct3 : BitVec 3) (rd rs1 : RegIdx) (imm : BitVec 12) (s : State) :
    Host.Outcome State Fault Refusal :=
  issue s (decJalrOther funct3 rd rs1 imm)

end Sys2Proof.Machine
end

