-- ==== Sys2Proof/Machine/IntegerCompute.lean ====
section
/-! DEFINITION. Classes OP, OP-IMM, LUI, AUIPC (spec/40_integer_compute.md R83 to R88). Of each instruction: `dec…`, what
Decode writes for it; `arch…`, its architectural effect; `exec…`, the clock cycle in which it is the live instruction in
Decode. Execute, Memory and Writeback act on it in later cycles, from the latches (log 1). -/

namespace Sys2Proof.Machine

/-- ADD (R83). -/
def decAdd (rd rs1 rs2 : RegIdx) : Dec := decR .op 0x33#7 0#3 0#7 rd rs1 rs2
/-- `x[rd] <- x[rs1] + x[rs2]; pc <- pc + 4` (R83). -/
def archAdd (rd rs1 rs2 : RegIdx) (a : ArchState) : SeqOutcome :=
  archWrite a rd (readReg a.x rs1 + readReg a.x rs2)
/-- ADD in Decode (R83, R113). -/
def execAdd (rd rs1 rs2 : RegIdx) (s : State) : Host.Outcome State Fault Refusal :=
  issue s (decAdd rd rs1 rs2)

/-- ADDI (R85). -/
def decAddi (rd rs1 : RegIdx) (imm : BitVec 12) : Dec := decI .opImm 0x13#7 0#3 rd rs1 imm
/-- `x[rd] <- x[rs1] + sext_12(imm); pc <- pc + 4` (R85). -/
def archAddi (rd rs1 : RegIdx) (imm : BitVec 12) (a : ArchState) : SeqOutcome :=
  archWrite a rd (readReg a.x rs1 + sext12 imm)
/-- ADDI in Decode (R85, R113). -/
def execAddi (rd rs1 : RegIdx) (imm : BitVec 12) (s : State) : Host.Outcome State Fault Refusal :=
  issue s (decAddi rd rs1 imm)

/-- Class OP with another function code: the tuple and the register usage of ADD (R84). -/
def decOpOther (funct3 : BitVec 3) (funct7 : BitVec 7) (rd rs1 rs2 : RegIdx) : Dec :=
  decR .op 0x33#7 funct3 funct7 rd rs1 rs2
/-- `x[rd] <- ALU_EXT(OP, funct3, funct7, x[rs1], x[rs2]); pc <- pc + 4` (R84). The function codes (0, 0) are ADD's. -/
def archOpOther (cfg : Cfg) (funct3 : BitVec 3) (funct7 : BitVec 7) (rd rs1 rs2 : RegIdx) (a : ArchState) : SeqOutcome :=
  if funct3 = 0#3 ∧ funct7 = 0#7 then archAdd rd rs1 rs2 a
  else archWrite a rd (aluExt cfg .op funct3 funct7 (readReg a.x rs1) (readReg a.x rs2))
/-- Class OP with another function code in Decode (R84, R113). -/
def execOpOther (funct3 : BitVec 3) (funct7 : BitVec 7) (rd rs1 rs2 : RegIdx) (s : State) :
    Host.Outcome State Fault Refusal :=
  issue s (decOpOther funct3 funct7 rd rs1 rs2)

/-- Class OP-IMM with another function code: as ADDI (R86). -/
def decOpimmOther (funct3 : BitVec 3) (rd rs1 : RegIdx) (imm : BitVec 12) : Dec :=
  decI .opImm 0x13#7 funct3 rd rs1 imm
/-- `x[rd] <- ALU_EXT(OP-IMM, funct3, w[31:25], x[rs1], imm_i); pc <- pc + 4` (R86). The function code 0 is ADDI's. -/
def archOpimmOther (cfg : Cfg) (funct3 : BitVec 3) (rd rs1 : RegIdx) (imm : BitVec 12) (a : ArchState) : SeqOutcome :=
  if funct3 = 0#3 then archAddi rd rs1 imm a
  else archWrite a rd (aluExt cfg .opImm funct3 (imm.extractLsb' 5 7) (readReg a.x rs1) (sext12 imm))
/-- Class OP-IMM with another function code in Decode (R86, R113). -/
def execOpimmOther (funct3 : BitVec 3) (rd rs1 : RegIdx) (imm : BitVec 12) (s : State) :
    Host.Outcome State Fault Refusal :=
  issue s (decOpimmOther funct3 rd rs1 imm)

/-- LUI (R87). -/
def decLui (rd : RegIdx) (imm20 : BitVec 20) : Dec := decU .lui 0x37#7 rd imm20
/-- `x[rd] <- {imm20, 0x000}; pc <- pc + 4` (R87). -/
def archLui (rd : RegIdx) (imm20 : BitVec 20) (a : ArchState) : SeqOutcome := archWrite a rd (immUpper imm20)
/-- LUI in Decode (R87, R113). -/
def execLui (rd : RegIdx) (imm20 : BitVec 20) (s : State) : Host.Outcome State Fault Refusal :=
  issue s (decLui rd imm20)

/-- AUIPC; without `AUIPC_EN` the word is UNKNOWN and carries the all-false tuple (R68, R88). -/
def decAuipc (auipcEn : Bool) (rd : RegIdx) (imm20 : BitVec 20) : Dec :=
  decU (if auipcEn then .auipc else .unknown) 0x17#7 rd imm20
/-- `x[rd] <- pc + {imm20, 0x000}; pc <- pc + 4`; without `AUIPC_EN`, `pc <- pc + 4` only (R68, R88). -/
def archAuipc (cfg : Cfg) (rd : RegIdx) (imm20 : BitVec 20) (a : ArchState) : SeqOutcome :=
  if cfg.auipcEn then archWrite a rd (a.pc + immUpper imm20) else archSkip a
/-- AUIPC in Decode (R88, R113). -/
def execAuipc (rd : RegIdx) (imm20 : BitVec 20) (s : State) : Host.Outcome State Fault Refusal :=
  issue s (decAuipc s.cfg.auipcEn rd imm20)

end Sys2Proof.Machine
end

