-- ==== Sys2Proof/Machine/LoadStore.lean ====
section
/-! DEFINITION. Classes LOAD and STORE (spec/41_load_store.md R89 to R94): `dec…`, `arch…` and `exec…` as in
Machine/IntegerCompute.lean. The access itself is the Memory stage's (R111). -/

namespace Sys2Proof.Machine

/-- LW (R90). -/
def decLw (rd rs1 : RegIdx) (imm : BitVec 12) : Dec := decI .load 0x03#7 2#3 rd rs1 imm
/-- `x[rd] <- MemRead(x[rs1] + sext_12(imm), 4); pc <- pc + 4` (R90). -/
def archLw (cfg : Cfg) (rd rs1 : RegIdx) (imm : BitVec 12) (a : ArchState) : SeqOutcome :=
  archLoad cfg a rd (readReg a.x rs1 + sext12 imm)
/-- LW in Decode (R90, R113). -/
def execLw (rd rs1 : RegIdx) (imm : BitVec 12) (s : State) : Host.Outcome State Fault Refusal :=
  issue s (decLw rd rs1 imm)

/-- Class LOAD with another `funct3`, which is ignored (R91). -/
def decLoadOther (funct3 : BitVec 3) (rd rs1 : RegIdx) (imm : BitVec 12) : Dec := decI .load 0x03#7 funct3 rd rs1 imm
/-- The effect of LW (R91). -/
def archLoadOther (cfg : Cfg) (_funct3 : BitVec 3) (rd rs1 : RegIdx) (imm : BitVec 12) (a : ArchState) : SeqOutcome :=
  archLoad cfg a rd (readReg a.x rs1 + sext12 imm)
/-- Class LOAD with another `funct3` in Decode (R91, R113). -/
def execLoadOther (funct3 : BitVec 3) (rd rs1 : RegIdx) (imm : BitVec 12) (s : State) :
    Host.Outcome State Fault Refusal :=
  issue s (decLoadOther funct3 rd rs1 imm)

/-- SW (R92). -/
def decSw (rs1 rs2 : RegIdx) (imm : BitVec 12) : Dec := decS .store 0x23#7 2#3 rs1 rs2 imm
/-- `MemWrite(x[rs1] + sext_12(imm), 4, x[rs2]); pc <- pc + 4` (R92). -/
def archSw (cfg : Cfg) (rs1 rs2 : RegIdx) (imm : BitVec 12) (a : ArchState) : SeqOutcome :=
  archStore cfg a (readReg a.x rs1 + sext12 imm) (readReg a.x rs2)
/-- SW in Decode (R92, R113). -/
def execSw (rs1 rs2 : RegIdx) (imm : BitVec 12) (s : State) : Host.Outcome State Fault Refusal :=
  issue s (decSw rs1 rs2 imm)

/-- Class STORE with another `funct3`, which is ignored (R94). -/
def decStoreOther (funct3 : BitVec 3) (rs1 rs2 : RegIdx) (imm : BitVec 12) : Dec :=
  decS .store 0x23#7 funct3 rs1 rs2 imm
/-- The effect of SW: all 32 bits are written (R94). -/
def archStoreOther (cfg : Cfg) (_funct3 : BitVec 3) (rs1 rs2 : RegIdx) (imm : BitVec 12) (a : ArchState) : SeqOutcome :=
  archStore cfg a (readReg a.x rs1 + sext12 imm) (readReg a.x rs2)
/-- Class STORE with another `funct3` in Decode (R94, R113). -/
def execStoreOther (funct3 : BitVec 3) (rs1 rs2 : RegIdx) (imm : BitVec 12) (s : State) :
    Host.Outcome State Fault Refusal :=
  issue s (decStoreOther funct3 rs1 rs2 imm)

end Sys2Proof.Machine
end

