-- ==== Sys2Proof/Machine/UnknownNop.lean ====
section
/-! DEFINITION. UNKNOWN words (spec/43_unknown_nop.md R104 to R107): `dec…`, `arch…` and `exec…` as in
Machine/IntegerCompute.lean. SYSTEM, MISC-MEM and AMO words are among them (R105, R106, R54). -/

namespace Sys2Proof.Machine

/-- An UNKNOWN word: its raw fields, immediate 0, the all-false tuple (R58, R65, R70, R104). -/
def decUnknown (w : Word) : Dec :=
  ⟨opcodeField w, rdField w, rs1Field w, rs2Field w, funct3Field w, funct7Field w, 0#32, ctrlOf .unknown⟩
/-- `pc <- pc + 4`; nothing else changes (R104). -/
def archUnknown (_w : Word) (a : ArchState) : SeqOutcome := archSkip a
/-- An UNKNOWN word in Decode: a live instruction, which can stall (R104, R113). -/
def execUnknown (w : Word) (s : State) : Host.Outcome State Fault Refusal := issue s (decUnknown w)

end Sys2Proof.Machine
end

