-- ==== Sys2Proof/Machine/Dispatch.lean ====
section
/-! DEFINITION. `exec i s`: the clock cycle in which `i` is the live instruction in Decode, one arm per constructor. -/

namespace Sys2Proof.Machine
open Sys2Proof

def exec (i : Instr) (s : State) : Host.Outcome State Fault Refusal :=
  match i with
  | .add rd rs1 rs2 => Sys2Proof.Machine.execAdd rd rs1 rs2 s
  | .addi rd rs1 imm => Sys2Proof.Machine.execAddi rd rs1 imm s
  | .lw rd rs1 imm => Sys2Proof.Machine.execLw rd rs1 imm s
  | .sw rs1 rs2 imm => Sys2Proof.Machine.execSw rs1 rs2 imm s
  | .beq rs1 rs2 off => Sys2Proof.Machine.execBeq rs1 rs2 off s
  | .jalr rd rs1 imm => Sys2Proof.Machine.execJalr rd rs1 imm s
  | .jal rd off => Sys2Proof.Machine.execJal rd off s
  | .lui rd imm20 => Sys2Proof.Machine.execLui rd imm20 s
  | .auipc rd imm20 => Sys2Proof.Machine.execAuipc rd imm20 s
  | .opOther funct3 funct7 rd rs1 rs2 => Sys2Proof.Machine.execOpOther funct3 funct7 rd rs1 rs2 s
  | .opimmOther funct3 rd rs1 imm => Sys2Proof.Machine.execOpimmOther funct3 rd rs1 imm s
  | .loadOther funct3 rd rs1 imm => Sys2Proof.Machine.execLoadOther funct3 rd rs1 imm s
  | .storeOther funct3 rs1 rs2 imm => Sys2Proof.Machine.execStoreOther funct3 rs1 rs2 imm s
  | .branchOther funct3 rs1 rs2 off => Sys2Proof.Machine.execBranchOther funct3 rs1 rs2 off s
  | .jalrOther funct3 rd rs1 imm => Sys2Proof.Machine.execJalrOther funct3 rd rs1 imm s
  | .unknown w => Sys2Proof.Machine.execUnknown w s

end Sys2Proof.Machine
end

