-- ==== Sys2Proof/Machine/Load.lean ====
section
/-! DEFINITION. Placing a program word as the external loader and one fetch would (spec/70_reset_and_hazards.md R164, R163). -/

namespace Sys2Proof.Machine

/-- `IMEM` with word `i` set, extended by zero words where it is shorter. -/
def placeWord : List Word → Nat → Word → List Word
  | [], 0, w => [w]
  | _ :: rest, 0, w => w :: rest
  | [], n + 1, w => 0#32 :: placeWord [] n w
  | h :: rest, n + 1, w => h :: placeWord rest n w

/-- The state in which word `w`, placed in `IMEM` at `pc`, has just been fetched: it is the live instruction in
Decode, and no older instruction is in Execute or Memory that it could have to wait for (log 11). -/
def placeFetched (s : State) (w : Word) : State :=
  { s with
    cfg := { s.cfg with imem := placeWord s.cfg.imem (s.pc.toNat / 4) w }
    pc := s.pc + 4#32
    ifid := ⟨true, false, s.pc, w⟩
    idex := IdEx.invalid
    exmem := ExMem.invalid
    halted := none }

end Sys2Proof.Machine
end

