-- ==== Sys2Proof/Machine/Step.lean ====
section
/-! DEFINITION. The step function: one clock cycle, `Cycle` (spec/44_pipeline_latch_controller.md R108). -/

namespace Sys2Proof.Machine

/-- One clock cycle. When `IFID` is live its word is decoded and the cycle is that of the decoded instruction;
otherwise Decode holds nothing (R113, R116). -/
def step (s : State) : Host.Outcome State Fault Refusal :=
  if s.ifid.live then exec (decode s.cfg.auipcEn s.ifid.instr) s else idleCycle s

/-- `s` with the opcode-table word of `nbits` bits as the instruction the next step runs. An instruction enters
Decode from `IFID`, the cycle after its fetch, so the word is placed in `IMEM` at `pc` and fetched (log 11). -/
def State.withFetchWord (s : State) (nbits w : Nat) : State :=
  placeFetched s (BitVec.ofNat 32 (w % 2 ^ nbits))

end Sys2Proof.Machine
end

