-- ==== Sys2Proof/Machine/Run.lean ====
section
/-! DEFINITION. The run of the machine and what it shows the outside (spec/44_pipeline_latch_controller.md R118 to R121,
spec/60_exceptions.md R161). -/

namespace Sys2Proof.Machine

/-- `k` clock cycles, ending at the first one that has no next state (R8). -/
def runCycles : Nat → State → Host.Outcome State Fault Refusal
  | 0, s => .next s
  | k + 1, s =>
    match step s with
    | .next s' => runCycles k s'
    | .fault r => .fault r
    | .refused r => .refused r

/-! ### The end of a run (R118, R119) -/

/-- `Drained(s)`: all four latches have `valid = 0` and `pc >=u 4*N` (R118). -/
def drained (s : State) : Bool :=
  !s.ifid.valid && !s.idex.valid && !s.exmem.valid && !s.memwb.valid && !inBounds s.cfg s.pc

/-- The run loop goes on: not halted, below the cycle limit, not drained (R119). -/
def goesOn (s : State) : Bool := s.halted.isNone && decide (s.cycle < s.cfg.cycleLimit) && !drained s

/-- The run loop, with at most `k` cycles. -/
def runLoop : Nat → State → State
  | 0, s => s
  | k + 1, s =>
    if goesOn s then
      match step s with
      | .next s' => runLoop k s'
      | .fault _ => s
      | .refused _ => s
    else s

/-- The run from a state to its end: `CYCLE_LIMIT` cycles are always enough, since `cycle` counts them (R119). -/
def runToEnd (s : State) : State := runLoop s.cfg.cycleLimit s

/-- The three named outcomes of a run (R119). -/
inductive RunOutcome where
  | drained
  | limit
  | halted (r : FatalRecord)
  deriving DecidableEq, Repr

/-- The outcome a final state of the run loop stands for (R119). A state that is drained and has reached `CYCLE_LIMIT`
fits the spec's words for `drained` and for `limit`, and the spec gives no order: `drained` is answered.
DESIGN CHOICE, unsafe (log 17). -/
def runOutcome (s : State) : RunOutcome :=
  match s.halted with
  | some r => .halted r
  | none => if drained s then .drained else .limit

/-! ### The occupancy observation (R120) -/

/-- The five-entry record of a cycle: the address held in each stage, or empty. -/
structure Occupancy where
  ifPc : Option Word
  idPc : Option Word
  exPc : Option Word
  memPc : Option Word
  wbPc : Option Word
  deriving DecidableEq, Repr

/-- The wire `stall` of the cycle that starts at `s` (R113, R122). -/
def stallWire (s : State) : Bool :=
  s.ifid.live && hazard s.cfg (decOfWord s.cfg.auipcEn s.ifid.instr) s.idex s.exmem

/-- The Memory stage of the cycle that starts at `s` raises a fatal error, codes 1 and 2 (R111). -/
def memoryRaises (s : State) : Bool :=
  match memoryStage s.cfg s.exmem s.dmem with
  | .error _ => true
  | .ok _ => false

/-- A fetch is made in the cycle that starts at `s`: Fetch is evaluated, which it is not when Memory raises a fatal
error (R147), takes its second branch (R114), and `pc` is in bounds (R120). A fetch that raises the misaligned-fetch
error meets these conditions and counts as made. -/
def fetchMade (s : State) : Bool := !memoryRaises s && !stallWire s && inBounds s.cfg s.pc

/-- The occupancy record of the cycle that starts at `s` (R120). A cycle that raises a fatal error has a record too,
with the stages that hold a live latch at its start and IF by `fetchMade`.
DESIGN CHOICE, unsafe (log 19): the spec does not say which record such a cycle has. -/
def occupancy (s : State) : Occupancy where
  ifPc := if fetchMade s then some s.pc else none
  idPc := if s.ifid.live then some s.ifid.pc else none
  exPc := if s.idex.live then some s.idex.pc else none
  memPc := if s.exmem.live then some s.exmem.pc else none
  wbPc := if s.memwb.live then some s.memwb.pc else none

/-- The occupancy records of the cycles the run loop makes, at most `k`, a cycle that raises a fatal error included
(R119, R161; log 19). -/
def trace : Nat → State → List Occupancy
  | 0, _ => []
  | k + 1, s =>
    if goesOn s then
      match step s with
      | .next s' => occupancy s :: trace k s'
      | .fault _ => []
      | .refused _ => []
    else []

/-- The five stages (R1). -/
inductive Stage where
  | fetch | decode | execute | memory | writeback
  deriving DecidableEq, Repr

/-- An entry of the document's table (R120). -/
inductive TableEntry where
  | empty
  | stage (st : Stage)
  /-- The repeat-marker: still in the stage it held last cycle. -/
  | same
  deriving DecidableEq, Repr

/-- The stage whose address is `addr`. Where one static instruction is in two stages at once the document gives no
entry; the first stage in pipeline order is taken. DESIGN CHOICE, safe (log 14). -/
def Occupancy.stageOf (o : Occupancy) (addr : Word) : Option Stage :=
  if o.ifPc = some addr then some .fetch
  else if o.idPc = some addr then some .decode
  else if o.exPc = some addr then some .execute
  else if o.memPc = some addr then some .memory
  else if o.wbPc = some addr then some .writeback
  else none

/-- The table's row of the instruction at `addr`, from the stage it held in the cycle before (R120). -/
def tableRow (addr : Word) : Option Stage → List Occupancy → List TableEntry
  | _, [] => []
  | before, o :: rest =>
    (match o.stageOf addr with
      | none => .empty
      | some st => if before = some st then .same else .stage st) :: tableRow addr (o.stageOf addr) rest

/-- `simulate(cycleCount)`: the per-instruction stage-occupancy table of a run from reset, row `i` for the
instruction at address `4*i` (R161). -/
def simulate (cfg : Cfg) : List (List TableEntry) :=
  (List.range cfg.imem.length).map fun i =>
    tableRow (BitVec.ofNat 32 (4 * i)) none (trace cfg.cycleLimit (State.resetWith cfg))

/-! ### The block as hardware (R121) -/

/-- The outputs of the block in a cycle. -/
structure Ports where
  instrAddr : Word
  dataAddr : Word
  dataWrite : Word
  readEnable : Bool
  writeEnable : Bool
  occupancy : Occupancy
  halted : Option FatalRecord
  deriving DecidableEq, Repr

/-- The outputs at `s` (R121). On a halted state, where no cycle exists, they are driven from the frozen latches by the
same equations. DESIGN CHOICE, unsafe (log 18): the spec does not say what the ports show there. -/
def ports (s : State) : Ports where
  instrAddr := s.pc
  dataAddr := s.exmem.aluResult
  dataWrite := s.exmem.storeData
  readEnable := s.exmem.live && s.exmem.ctrl.readsMemory
  writeEnable := s.exmem.live && s.exmem.ctrl.writesMemory
  occupancy := Sys2Proof.Machine.occupancy s
  halted := s.halted

/-- One rising clock edge: the synchronous `rst` input loads the reset values, the parameters staying as strapped
(R121, R162); otherwise one cycle. -/
def clockEdge (rst : Bool) (s : State) : Host.Outcome State Fault Refusal :=
  if rst then .next (State.resetWith s.cfg) else step s

end Sys2Proof.Machine
end

