-- ==== Sys2Proof/Machine/Sequential.lean ====
section
/-! DEFINITION. The sequential reference machine of spec/70_reset_and_hazards.md R167: it applies the
"Architectural effect" line of one instruction a step. -/

namespace Sys2Proof.Machine

/-- The architectural effect of an instruction (files 40 to 43). -/
def archExec (cfg : Cfg) (i : Instr) (a : ArchState) : SeqOutcome :=
  match i with
  | .add rd rs1 rs2 => archAdd rd rs1 rs2 a
  | .addi rd rs1 imm => archAddi rd rs1 imm a
  | .lw rd rs1 imm => archLw cfg rd rs1 imm a
  | .sw rs1 rs2 imm => archSw cfg rs1 rs2 imm a
  | .beq rs1 rs2 off => archBeq rs1 rs2 off a
  | .jalr rd rs1 imm => archJalr rd rs1 imm a
  | .jal rd off => archJal rd off a
  | .lui rd imm20 => archLui rd imm20 a
  | .auipc rd imm20 => archAuipc cfg rd imm20 a
  | .opOther funct3 funct7 rd rs1 rs2 => archOpOther cfg funct3 funct7 rd rs1 rs2 a
  | .opimmOther funct3 rd rs1 imm => archOpimmOther cfg funct3 rd rs1 imm a
  | .loadOther funct3 rd rs1 imm => archLoadOther cfg funct3 rd rs1 imm a
  | .storeOther funct3 rs1 rs2 imm => archStoreOther cfg funct3 rs1 rs2 imm a
  | .branchOther funct3 rs1 rs2 off => archBranchOther funct3 rs1 rs2 off a
  | .jalrOther funct3 rd rs1 imm => archJalrOther funct3 rd rs1 imm a
  | .unknown w => archUnknown w a

/-- What Decode writes for an instruction, one record per constructor (R58). -/
def decOf (auipcEn : Bool) (i : Instr) : Dec :=
  match i with
  | .add rd rs1 rs2 => decAdd rd rs1 rs2
  | .addi rd rs1 imm => decAddi rd rs1 imm
  | .lw rd rs1 imm => decLw rd rs1 imm
  | .sw rs1 rs2 imm => decSw rs1 rs2 imm
  | .beq rs1 rs2 off => decBeq rs1 rs2 off
  | .jalr rd rs1 imm => decJalr rd rs1 imm
  | .jal rd off => decJal rd off
  | .lui rd imm20 => decLui rd imm20
  | .auipc rd imm20 => decAuipc auipcEn rd imm20
  | .opOther funct3 funct7 rd rs1 rs2 => decOpOther funct3 funct7 rd rs1 rs2
  | .opimmOther funct3 rd rs1 imm => decOpimmOther funct3 rd rs1 imm
  | .loadOther funct3 rd rs1 imm => decLoadOther funct3 rd rs1 imm
  | .storeOther funct3 rs1 rs2 imm => decStoreOther funct3 rs1 rs2 imm
  | .branchOther funct3 rs1 rs2 off => decBranchOther funct3 rs1 rs2 off
  | .jalrOther funct3 rd rs1 imm => decJalrOther funct3 rd rs1 imm
  | .unknown w => decUnknown w

/-- One step of the sequential machine: it stops when `pc >=u 4*N`, halts on a misaligned fetch, and otherwise
applies the effect of the word at `pc` (R167). -/
def seqStep (cfg : Cfg) (a : ArchState) : SeqOutcome :=
  match ifetch cfg a.pc with
  | .outside => .stopped a
  | .misaligned => .fatal .misalignedFetch a.pc a.pc
  | .word w => archExec cfg (decode cfg.auipcEn w) a

/-- The sequential machine's reset state: `(RESET_PC, RF_INIT, DMEM_INIT)` (R162, R167). -/
def seqReset (cfg : Cfg) : ArchState :=
  ⟨(State.resetWith cfg).pc, (State.resetWith cfg).x, (State.resetWith cfg).dmem⟩

/-- At most `k` steps of the sequential machine, ending at the first stop or fatal error (R167). -/
def seqRun (cfg : Cfg) : Nat → ArchState → SeqOutcome
  | 0, a => .running a
  | k + 1, a =>
    match seqStep cfg a with
    | .running a' => seqRun cfg k a'
    | o => o

end Sys2Proof.Machine
end

