-- ==== Sys2Proof/Safety.lean ====
section
/-! DEFINITION. The terms claims use: the invariants of the pipeline (spec/44_pipeline_latch_controller.md R117) and the
sequential state a pipeline state stands for (spec/70_reset_and_hazards.md R167). -/

namespace Sys2Proof.Safety
open Sys2Proof.Machine

/-- `x[0]` is hard-wired: entry 0 of the file never changes from 0 (R14). -/
abbrev ZeroRegister (s : State) : Prop := s.x[0] = 0#32

/-- The fourth latch condition, a bubble that is not valid, does not occur, and an empty latch holds the canonical
value: `INVALID`, or `BUBBLE` of its `pc`; a bubble of `IFID` keeps its word (R25 to R28). -/
abbrev LatchesCanonical (s : State) : Prop :=
  (s.ifid.valid = false → s.ifid = IfId.invalid) ∧
  (s.idex.live = false → s.idex = IdEx.invalid ∨ s.idex = IdEx.bubbleAt s.idex.pc) ∧
  (s.exmem.live = false → s.exmem = ExMem.invalid ∨ s.exmem = ExMem.bubbleAt s.exmem.pc) ∧
  (s.memwb.live = false → s.memwb = MemWb.invalid ∨ s.memwb = MemWb.bubbleAt s.memwb.pc)

/-- Every live latch carries the control tuple of a class; the one in Execute that of its own opcode (R69, R70). -/
abbrev TuplesOfClasses (s : State) : Prop :=
  (s.idex.live = true → s.idex.ctrl = ctrlOf (classOf s.cfg.auipcEn s.idex.opcode)) ∧
  (s.exmem.live = true → ∃ c, s.exmem.ctrl = ctrlOf c) ∧
  (s.memwb.live = true → ∃ c, s.memwb.ctrl = ctrlOf c)

/-- A live `IFID` holds the word of `IMEM` at its own address, and `pc` is the address behind it (R114, R137). -/
abbrev FetchedFromProgram (s : State) : Prop :=
  s.ifid.live = true →
    ifetch s.cfg s.ifid.pc = .word s.ifid.instr ∧ s.pc = s.ifid.pc + 4#32

/-- A `pc` a fetch would fault on comes from a redirect or from reset: no live instruction is in Decode, and the one
in Execute accesses no data memory (R146, R147). -/
abbrev FaultingFetchIsYoungest (s : State) : Prop :=
  ifetch s.cfg s.pc = .misaligned →
    s.ifid.live = false ∧
    (s.idex.live = true → s.idex.ctrl.readsMemory = false ∧ s.idex.ctrl.writesMemory = false)

/-- No operand of the instruction in Execute is still on its way: with forwarding, no load in `EXMEM` is its producer;
without, no writer in `EXMEM` is (R123, R125, R133). -/
abbrev OperandsFresh (s : State) : Prop :=
  s.idex.live = true → s.exmem.live = true → s.exmem.ctrl.writesRegister = true →
    (s.cfg.fwdEn = true → s.exmem.ctrl.readsMemory = true) →
    readsReg s.idex.opcode s.idex.rs1 s.idex.rs2 s.exmem.rd = false

/-- The invariant of the pipeline. -/
structure PipelineInvariant (s : State) : Prop where
  zeroRegister : ZeroRegister s
  memoryCanonical : s.dmem.wf = true
  latchesCanonical : LatchesCanonical s
  tuplesOfClasses : TuplesOfClasses s
  fetchedFromProgram : FetchedFromProgram s
  faultingFetchIsYoungest : FaultingFetchIsYoungest s
  operandsFresh : OperandsFresh s

/-- The configurations in which no hazard is left to software (R166, R167). -/
abbrev HazardFree (cfg : Cfg) : Prop := cfg.fwdEn = false ∨ cfg.brInterlock = true

/-- The effect an instruction in MEM still has: its access and its register write (R110, R111). -/
def completeMem (cfg : Cfg) (m : ExMem) (x : RegFile) (dmem : Memory) : Except FatalCode (RegFile × Memory) :=
  match memoryStage cfg m dmem with
  | .error code => .error code
  | .ok (w, dmem') => .ok (writebackStage w x, dmem')

/-- The `EXMEM` latch an instruction in EX would write if its operands were read from `x` alone (R82, R112). -/
def executeFrom (cfg : Cfg) (e : IdEx) (x : RegFile) : ExMem :=
  if e.live then
    exLatch cfg e (if usesRs1 e.opcode then readReg x e.rs1 else 0#32) (if usesRs2 e.opcode then readReg x e.rs2 else 0#32)
  else ExMem.invalid

/-- The address of the next instruction to be decoded: that of a live `IFID`, else `pc` (R140). -/
def issuePc (s : State) : Word := if s.ifid.live then s.ifid.pc else s.pc

/-- The sequential state a pipeline state stands for: the instructions in WB, MEM and EX are completed in program
order, and `pc` is the next instruction to be decoded. A fatal error one of them will raise is the outcome (R167). -/
def architecturalState (s : State) : SeqOutcome :=
  match completeMem s.cfg s.exmem (writebackStage s.memwb s.x) s.dmem with
  | .error code => .fatal code s.exmem.pc s.exmem.aluResult
  | .ok (x, dmem) =>
    match completeMem s.cfg (executeFrom s.cfg s.idex x) x dmem with
    | .error code => .fatal code s.idex.pc (executeFrom s.cfg s.idex x).aluResult
    | .ok (x', dmem') => .running ⟨issuePc s, x', dmem'⟩

/-- One step of the sequential machine on an outcome: a stop or a fatal error stays. -/
def seqAdvance (cfg : Cfg) (o : SeqOutcome) : SeqOutcome :=
  match o with
  | .running a => seqStep cfg a
  | .stopped a => .stopped a
  | .fatal code pc addr => .fatal code pc addr

end Sys2Proof.Safety
end

