-- ==== Sys2Proof/WellFormed.lean ====
section
/-! DEFINITION. Which instructions are well formed: those the decoder can produce. A row `…Other` does not carry
the function code its class names, UNKNOWN does not carry a class opcode, and AUIPC exists only with `AUIPC_EN`. -/

namespace Sys2Proof

/-- The check, given the capability flag `AUIPC_EN` (spec/30_encoding.md R67, R68; spec/43_unknown_nop.md R104). -/
def wellFormed (auipcEn : Bool) : Instr → Bool
  | .add _ _ _ | .addi _ _ _ | .lw _ _ _ | .sw _ _ _ | .beq _ _ _ | .jalr _ _ _ | .jal _ _ | .lui _ _ => true
  | .auipc _ _ => auipcEn
  | .opOther funct3 funct7 _ _ _ => !(funct3 == 0#3 && funct7 == 0#7)
  | .opimmOther funct3 _ _ _ => funct3 != 0#3
  | .loadOther funct3 _ _ _ => funct3 != 2#3
  | .storeOther funct3 _ _ _ => funct3 != 2#3
  | .branchOther funct3 _ _ _ => funct3 != 0#3
  | .jalrOther funct3 _ _ _ => funct3 != 0#3
  | .unknown w => classOf auipcEn (opcodeField w) == .unknown

end Sys2Proof
end

