-- ==== Sys2Proof/Certificates/Slice0/Obligations.lean ====
section
/-! DEFINITION. The statements for the provers. Each docstring names the rule of spec/ it formalises. -/

namespace Sys2Proof.Claims
open Sys2Proof.Machine Sys2Proof.Safety

/-! ### Terms the statements share -/

/-- `addr` is below `4*N` (R37). -/
abbrev Fetchable (cfg : Cfg) (addr : Word) : Prop := addr.toNat < 4 * cfg.imem.length

/-- The access of the instruction in MEM, if it makes one, passes both checks (R44). -/
abbrev NoDataError (s : State) : Prop :=
  s.exmem.live = true → (s.exmem.ctrl.readsMemory = true ∨ s.exmem.ctrl.writesMemory = true) →
    accessError s.cfg s.exmem.aluResult = none

/-- The fetch of this cycle, if one is made, is not misaligned (R40). -/
abbrev NoFetchError (s : State) : Prop := ifetch s.cfg s.pc ≠ .misaligned

/-- The register file every read of the cycle sees (R17). -/
abbrev xAfterWb (s : State) : RegFile := writebackStage s.memwb s.x

/-- The decode record of the word in `IFID` (R58). -/
abbrev decodedIn (s : State) : Dec := decOfWord s.cfg.auipcEn s.ifid.instr

/-- The wire `flush` (R113, R137). -/
abbrev flushWire (s : State) : Bool := s.ifid.live && !stallWire s && (decodedIn s).ctrl.isControlFlow

/-- The wire `redirect` when `flush` is raised (R113, R136, R140). -/
abbrev redirectWire (s : State) : Word :=
  redirectOf (resolve s.cfg (decodedIn s) s.ifid.pc s.exmem s.memwb (xAfterWb s)) s.ifid.pc

/-- The instruction `i` in Decode at `s.ifid.pc` is the only one in the pipeline, and the program ends behind it. -/
abbrev Alone (s : State) : Prop :=
  s.halted = none ∧ s.idex.live = false ∧ s.exmem.live = false ∧ s.memwb.live = false ∧
    s.pc = s.ifid.pc + 4#32 ∧ ¬ Fetchable s.cfg s.pc

/-- The drained state after the one instruction of an `Alone` state: its architectural effect, every latch
invalid, four cycles later. Everything else is as in `s`. -/
def retired (s : State) (pc : Word) (x : RegFile) (dmem : Memory) : State :=
  { s with
    pc := pc, x := x, dmem := dmem, ifid := IfId.invalid, idex := IdEx.invalid, exmem := ExMem.invalid,
    memwb := MemWb.invalid, cycle := s.cycle + 4 }

/-- `exec i s` answers a next state, and the three cycles of Execute, Memory and Writeback that follow leave the
given `pc`, `x` and `dmem`, all else unchanged. -/
abbrev RetiresAs (i : Instr) (s : State) (pc : Word) (x : RegFile) (dmem : Memory) : Prop :=
  ∃ t, exec i s = .next t ∧ runCycles 3 t = .next (retired s pc x dmem)

/-- A data address that passes both checks (R44, R48). -/
abbrev AddressGood (cfg : Cfg) (ea : Word) : Prop :=
  (cfg.dmemAddrMode = .byte → ea.toNat % 4 = 0) ∧ wordIndex cfg ea < cfg.dmemWords

/-- `exec i s` answers a next state, and the second cycle after it halts on the access of `i` in MEM: the record
names `i` and the address, `x`, `dmem`, `pc` and the completed cycles are as the halting cycle found them (R147). -/
abbrev HaltsInMemory (i : Instr) (s : State) (code : FatalCode) (ea : Word) : Prop :=
  ∃ t u, exec i s = .next t ∧ runCycles 2 t = .next u ∧
    u.halted = some ⟨code, s.cycle + 3, s.ifid.pc, ea⟩ ∧ u.x = s.x ∧ u.dmem = s.dmem ∧ u.pc = s.pc ∧
    u.cycle = s.cycle + 2 ∧ u.cfg = s.cfg

/-- The `IFID` a flushing cycle writes: a bubble holding the fetched word, or `INVALID` past the end (R137, R138). -/
abbrev flushedFetch (s : State) : IfId :=
  if s.pc.toNat < 4 * s.cfg.imem.length then ⟨true, true, s.pc, imemWord s.cfg s.pc⟩ else IfId.invalid

/-- The operand a source register has in this cycle (R130). -/
abbrev operandIn (s : State) (r : RegIdx) : Word := operand s.cfg r s.exmem s.memwb (xAfterWb s)

/-- A cycle in which `i` is decoded: no stall, no fatal error. -/
abbrev Issues (i : Instr) (s : State) : Prop :=
  s.halted = none ∧ NoDataError s ∧ NoFetchError s ∧
    hazard s.cfg (decOf s.cfg.auipcEn i) s.idex s.exmem = false

end Sys2Proof.Claims

open Sys2Proof Sys2Proof.Machine Sys2Proof.Safety Sys2Proof.Claims

/-! ### Encoding -/

/-- Every well-formed instruction, with every operand at every value, is what its own word decodes to (30_encoding.md,
opcode_table.json). Opcode numbers and field positions are the spec's decision D1, the U layout D2 (log 6), AUIPC by a
flag D24 (log 16). -/
def Obligations.DecodeInvertsEncode : Prop :=
  ∀ (auipcEn : Bool) (i : Instr), wellFormed auipcEn i = true → decode auipcEn (encode i) = i

/-- Every one of the 2^32 words decodes to a well-formed instruction, and that instruction's word is the word itself:
no bit is dropped (30_encoding.md R58, R74). Opcode numbers and field positions are the spec's decision D1, the U
layout D2 (log 6), AUIPC by a flag D24 (log 16). -/
def Obligations.EncodeInvertsDecode : Prop :=
  ∀ (auipcEn : Bool) (w : Word),
    wellFormed auipcEn (decode auipcEn w) = true ∧ encode (decode auipcEn w) = w

/-- What Decode hands over for a decoded instruction holds the six raw fields at their positions, used or not, the
immediate of the class and the tuple of the class (R57, R58, R65). Opcode numbers and field positions are the spec's
decision D1, the U layout D2 (log 6), AUIPC by a flag D24 (log 16). -/
def Obligations.DecodeRecordHoldsRawFields : Prop :=
  ∀ (auipcEn : Bool) (w : Word),
    decOf auipcEn (decode auipcEn w) =
      { opcode := w.extractLsb' 0 7, rd := w.extractLsb' 7 5, funct3 := w.extractLsb' 12 3,
        rs1 := w.extractLsb' 15 5, rs2 := w.extractLsb' 20 5, funct7 := w.extractLsb' 25 7,
        imm := immOf (classOf auipcEn (w.extractLsb' 0 7)) w,
        ctrl := ctrlOf (classOf auipcEn (w.extractLsb' 0 7)) }

/-- The five immediate layouts bit by bit, and the range of each (R60 to R64). The U layout is the spec's decision D2
(log 6). -/
def Obligations.ImmediateLayouts : Prop :=
  ∀ (w : Word),
    (∀ c, (c = OpClass.opImm ∨ c = OpClass.load ∨ c = OpClass.jalr) →
      (∀ k, k < 32 → (immOf c w).getLsbD k = w.getLsbD (if k < 11 then k + 20 else 31)) ∧
      -2048 ≤ (immOf c w).toInt ∧ (immOf c w).toInt ≤ 2047) ∧
    ((∀ k, k < 32 → (immOf .store w).getLsbD k =
        w.getLsbD (if k < 5 then k + 7 else if k < 11 then k + 20 else 31)) ∧
      -2048 ≤ (immOf .store w).toInt ∧ (immOf .store w).toInt ≤ 2047) ∧
    ((immOf .branch w).getLsbD 0 = false ∧
      (∀ k, 1 ≤ k → k < 32 → (immOf .branch w).getLsbD k =
        w.getLsbD (if k < 5 then k + 7 else if k < 11 then k + 20 else if k = 11 then 7 else 31)) ∧
      -4096 ≤ (immOf .branch w).toInt ∧ (immOf .branch w).toInt ≤ 4094) ∧
    ((immOf .jal w).getLsbD 0 = false ∧
      (∀ k, 1 ≤ k → k < 32 → (immOf .jal w).getLsbD k =
        w.getLsbD (if k < 11 then k + 20 else if k = 11 then 20 else if k < 20 then k else 31)) ∧
      -1048576 ≤ (immOf .jal w).toInt ∧ (immOf .jal w).toInt ≤ 1048574) ∧
    (∀ c, (c = OpClass.lui ∨ c = OpClass.auipc) →
      ∀ k, k < 32 → (immOf c w).getLsbD k = (decide (12 ≤ k) && w.getLsbD k))

/-- The control tuple of every opcode; the signals in the order writesRegister, readsMemory, writesMemory,
aluUsesImmediate, aluMode, resultIsMemoryData, isControlFlow (R66, R70). The table is the spec's decision D3 (log 16), the
opcode numbers D1 (log 6), opcode 0x17 without `AUIPC_EN` D24 (log 16). -/
def Obligations.ControlTupleOfEachOpcode : Prop :=
  ∀ (auipcEn : Bool) (w : Word),
    let o := w.extractLsb' 0 7
    let t := (decOf auipcEn (decode auipcEn w)).ctrl
    (o = 0x33#7 → t = ⟨true, false, false, false, .add, false, false⟩) ∧
    (o = 0x13#7 → t = ⟨true, false, false, true, .add, false, false⟩) ∧
    (o = 0x03#7 → t = ⟨true, true, false, true, .add, true, false⟩) ∧
    (o = 0x23#7 → t = ⟨false, false, true, true, .add, false, false⟩) ∧
    (o = 0x63#7 → t = ⟨false, false, false, false, .compare, false, true⟩) ∧
    (o = 0x6F#7 → t = ⟨true, false, false, true, .add, false, true⟩) ∧
    (o = 0x67#7 → t = ⟨true, false, false, true, .add, false, true⟩) ∧
    (o = 0x37#7 → t = ⟨true, false, false, true, .add, false, false⟩) ∧
    (o = 0x17#7 → auipcEn = true → t = ⟨true, false, false, true, .add, false, false⟩) ∧
    ((o ≠ 0x33#7 ∧ o ≠ 0x13#7 ∧ o ≠ 0x03#7 ∧ o ≠ 0x23#7 ∧ o ≠ 0x63#7 ∧ o ≠ 0x6F#7 ∧ o ≠ 0x67#7 ∧ o ≠ 0x37#7 ∧
        (o = 0x17#7 → auipcEn = false)) →
      t = ⟨false, false, false, false, .add, false, false⟩)

/-- Words written out from the spec's encodings decode to the instructions they stand for (95_test_vectors.md E1).
Opcode numbers and field positions are the spec's decision D1, the U layout D2 (log 6), AUIPC by a flag D24 (log 16).
-/
def Obligations.SpecifiedWordsDecode : Prop :=
  decode true 0x002101B3#32 = .add 3 2 2 ∧ decode true 0x402081B3#32 = .opOther 0 0x20 3 1 2 ∧
  decode true 0xFFF08093#32 = .addi 1 1 0xFFF ∧ decode true 0xFFC1A103#32 = .lw 2 3 0xFFC ∧
  decode true 0xFE532C23#32 = .sw 6 5 0xFF8 ∧ decode true 0xFE208EE3#32 = .beq 1 2 0xFFE ∧
  decode true 0xFF5FF06F#32 = .jal 0 0xFFFFA ∧ decode true 0x800100E7#32 = .jalr 1 2 0x800 ∧
  decode true 0x123452B7#32 = .lui 5 0x12345 ∧ decode true 0x80000317#32 = .auipc 6 0x80000 ∧
  decode false 0x80000317#32 = .unknown 0x80000317 ∧ decode true 0x00000073#32 = .unknown 0x00000073

/-! ### The clock cycle -/

/-- A step runs the instruction the word in Decode decodes to, when `IFID` is live, and is the cycle in which
Decode holds nothing otherwise (R113, R116). The word fetched in a cycle is what Decode holds in the next: see
`DecodeAndFetchAct`. -/
def Obligations.StepRunsDecodedInstruction : Prop :=
  (∀ (s : State) (i : Instr), s.ifid.live = true → decode s.cfg.auipcEn s.ifid.instr = i →
    wellFormed s.cfg.auipcEn i = true → step s = exec i s) ∧
  (∀ (s : State), s.ifid.live = false → step s = cycleWith s (fun _ => decodeIdle s.ifid))

/-- From every state that is not halted every step and every instruction has a next state; from a halted state none
has (R108, R147). That a fatal error is a halted state with no successor is the spec's decision D20, the fault is how
the model says so (log 15). -/
def Obligations.EveryCycleCompletesUnlessHalted : Prop :=
  (∀ s : State, s.halted = none → (∃ s', step s = .next s') ∧ ∀ i, ∃ t, exec i s = .next t) ∧
  (∀ (s : State) (r : FatalRecord), s.halted = some r →
    step s = .fault (.halted r) ∧ ∀ i, exec i s = .fault (.halted r))

/-- `cycle` is 0 after reset and counts the cycles that raise no fatal error; the cycle executed is `cycle + 1`;
`halted` is `none` after reset, a fatal error sets it once and nothing clears it; and no step depends on the value of
`cycle` (R34). Both are the spec's decisions D20 and D21 (logs 15, 16). -/
def Obligations.CycleCounterAndHaltRecord : Prop :=
  (∀ cfg, (State.resetWith cfg).cycle = 0 ∧ (State.resetWith cfg).halted = none) ∧
  (∀ s s' : State, step s = .next s' →
    s.halted = none ∧ (s'.halted = none → s'.cycle = s.cycle + 1) ∧
    (∀ r, s'.halted = some r → s'.cycle = s.cycle ∧ r.cycle = s.cycle + 1)) ∧
  (∀ (s s' : State) (n : Nat), step s = .next s' →
    ∃ t', step { s with cycle := n } = .next t' ∧ t'.halted.isSome = s'.halted.isSome ∧
      { t' with cycle := 0, halted := none } = { s' with cycle := 0, halted := none })

/-- No step and no instruction changes a parameter, the program included (R21, R41). -/
def Obligations.ParametersNeverChange : Prop :=
  ∀ s s' : State, (step s = .next s' → s'.cfg = s.cfg) ∧ (∀ i, exec i s = .next s' → s'.cfg = s.cfg)

/-- Writeback is the only write of the register file: it commits the selected result of a live register-writing latch
whose destination is not 0, and every other register keeps its value (R110). In a cycle that halts the machine
Writeback is kept too, which is the spec's decision D20 (log 15). -/
def Obligations.WritebackCommits : Prop :=
  ∀ s s' : State, step s = .next s' → ∀ r : RegIdx,
    readReg s'.x r =
      if s.memwb.live = true ∧ s.memwb.ctrl.writesRegister = true ∧ s.memwb.rd ≠ 0#5 ∧ s.memwb.rd = r then
        (if s.memwb.ctrl.resultIsMemoryData then s.memwb.memData else s.memwb.aluResult)
      else readReg s.x r

/-- `x[0]` reads 0 in every state, and a write whose destination is 0 changes nothing (R14). -/
def Obligations.RegisterZeroIsHardwired : Prop :=
  ∀ s s' : State, step s = .next s' →
    readReg s.x 0#5 = 0#32 ∧ s'.x[0] = s.x[0] ∧ (s.memwb.rd = 0#5 → s'.x = s.x)

/-- The Memory stage in a cycle that raises no fatal error: an empty latch passes on, a live one makes the access
its tuple asks for (R111). The address modes (D12, log 16), the alignment check (D13, log 15) and the payload of bubbles (D19,
log 7) are the spec's decisions. -/
def Obligations.MemoryStageActs : Prop :=
  ∀ s s' : State, step s = .next s' → s'.halted = none →
    (s.exmem.valid = false → s'.memwb = MemWb.invalid ∧ s'.dmem = s.dmem) ∧
    (s.exmem.valid = true → s.exmem.bubble = true → s'.memwb = MemWb.bubbleAt s.exmem.pc ∧ s'.dmem = s.dmem) ∧
    (s.exmem.live = true →
      s'.memwb = ⟨true, false, s.exmem.pc, s.exmem.rd, s.exmem.ctrl, s.exmem.aluResult,
        if s.exmem.ctrl.readsMemory then readWord s.dmem (wordIndex s.cfg s.exmem.aluResult) else 0#32⟩ ∧
      s'.dmem = (if s.exmem.ctrl.writesMemory then
        writeWord s.dmem (wordIndex s.cfg s.exmem.aluResult) s.exmem.storeData else s.dmem) ∧
      ((s.exmem.ctrl.readsMemory = true ∨ s.exmem.ctrl.writesMemory = true) →
        AddressGood s.cfg s.exmem.aluResult))

/-- The Execute stage in a cycle that raises no fatal error: operands through forwarding or from the register file
after Writeback, 0 for a register the opcode does not use (R112). The payload of bubbles is the spec's decision D19 (log 7). -/
def Obligations.ExecuteStageActs : Prop :=
  ∀ s s' : State, step s = .next s' → s'.halted = none →
    (s.idex.valid = false → s'.exmem = ExMem.invalid) ∧
    (s.idex.valid = true → s.idex.bubble = true → s'.exmem = ExMem.bubbleAt s.idex.pc) ∧
    (s.idex.live = true →
      let v1 := if usesRs1 s.idex.opcode then operandIn s s.idex.rs1 else 0#32
      let v2 := if usesRs2 s.idex.opcode then operandIn s s.idex.rs2 else 0#32
      s'.exmem = ⟨true, false, s.idex.pc, s.idex.rd, s.idex.ctrl, (exResult s.cfg s.idex v1 v2).1,
        (exResult s.cfg s.idex v1 v2).2, v2⟩)

/-- `aluResult`, `isEqual` and `storeData` of every class, by opcode (R82). The rows of JAL, JALR, LUI and AUIPC are
the spec's decision D4 (log 6), the UNKNOWN row D26 and the unused ALU outputs, `isEqual` of `Add` and the result of
`Compare`, D29 (log 7), `ALU_EXT` D5 (logs 5, 16), opcode 0x17 without `AUIPC_EN` D24 (log 16). The opcode numbers its
clauses are keyed by are the spec's decision D1 (R66, log 6). -/
def Obligations.ExecuteResultOfEachClass : Prop :=
  ∀ (cfg : Cfg) (e : IdEx) (v1 v2 : Word),
    let m := exLatch cfg e v1 v2
    m.storeData = v2 ∧
    (e.opcode = 0x33#7 → m.isEqual = false ∧ m.aluResult =
      if e.funct3 = 0#3 ∧ e.funct7 = 0#7 then v1 + v2 else aluExt cfg .op e.funct3 e.funct7 v1 v2) ∧
    (e.opcode = 0x13#7 → m.isEqual = false ∧ m.aluResult =
      if e.funct3 = 0#3 then v1 + e.imm else aluExt cfg .opImm e.funct3 e.funct7 v1 e.imm) ∧
    (e.opcode = 0x03#7 ∨ e.opcode = 0x23#7 → m.isEqual = false ∧ m.aluResult = v1 + e.imm) ∧
    (e.opcode = 0x63#7 → m.isEqual = decide (v1 = v2) ∧ m.aluResult = 0#32) ∧
    (e.opcode = 0x6F#7 ∨ e.opcode = 0x67#7 → m.isEqual = false ∧ m.aluResult = e.pc + 4#32) ∧
    (e.opcode = 0x37#7 → m.isEqual = false ∧ m.aluResult = e.imm) ∧
    (e.opcode = 0x17#7 → m.isEqual = false ∧ m.aluResult = if cfg.auipcEn then e.pc + e.imm else 0#32) ∧
    ((e.opcode ≠ 0x33#7 ∧ e.opcode ≠ 0x13#7 ∧ e.opcode ≠ 0x03#7 ∧ e.opcode ≠ 0x23#7 ∧ e.opcode ≠ 0x63#7 ∧
        e.opcode ≠ 0x6F#7 ∧ e.opcode ≠ 0x67#7 ∧ e.opcode ≠ 0x37#7 ∧ e.opcode ≠ 0x17#7) →
      m.isEqual = false ∧ m.aluResult = 0#32)

/-- The Decode and Fetch stages in a cycle that raises no fatal error: the next `IDEX`, the next `IFID` and the pc
multiplexer, with the wires `stall`, `flush` and `redirect` (R113, R114, R140). The pc hold past the end (D15), the flush
as a wire of the same cycle (D17), the redirect of a branch not taken (D18), INVALID past the end (D30; log 16), the pc
of the stall bubble (D19, log 7) and the alignment of a fetch (D14, log 15) are the spec's decisions. -/
def Obligations.DecodeAndFetchAct : Prop :=
  ∀ s s' : State, step s = .next s' → s'.halted = none →
    (s.ifid.valid = false → s'.idex = IdEx.invalid) ∧
    (s.ifid.valid = true → s.ifid.bubble = true → s'.idex = IdEx.bubbleAt s.ifid.pc) ∧
    (s.ifid.live = true →
      s'.idex = if stallWire s then IdEx.bubbleAt s.ifid.pc else (decodedIn s).latch s.ifid.pc) ∧
    s'.ifid = (if stallWire s then s.ifid
      else if s.pc.toNat < 4 * s.cfg.imem.length then ⟨true, flushWire s, s.pc, imemWord s.cfg s.pc⟩
      else IfId.invalid) ∧
    s'.pc = (if flushWire s then redirectWire s
      else if stallWire s then s.pc
      else if s.pc.toNat < 4 * s.cfg.imem.length then s.pc + 4#32
      else s.pc) ∧
    (stallWire s = false → s.pc.toNat < 4 * s.cfg.imem.length → s.pc.toNat % 4 = 0)

/-- An instruction that meets no stall and no fatal error goes from Decode to a live `IDEX` carrying its own
fields, immediate and tuple; the stages ahead of it do their work of the cycle (R113, R115). -/
def Obligations.IssuedInstructionEntersExecute : Prop :=
  ∀ (i : Instr) (s : State), Issues i s →
    ∃ t, exec i s = .next t ∧ t.idex = (decOf s.cfg.auipcEn i).latch s.ifid.pc ∧
      t.exmem = executeStage s.cfg s.idex s.exmem s.memwb (xAfterWb s) ∧
      memoryStage s.cfg s.exmem s.dmem = .ok (t.memwb, t.dmem) ∧ t.x = xAfterWb s ∧
      t.cycle = s.cycle + 1 ∧ t.halted = none ∧ t.cfg = s.cfg

/-- A stall puts a bubble at the stalled instruction's address into Execute, retains `IFID` and `pc`, flushes nothing,
and lets the older instructions go on (R126). The address and the zero payload of the bubble are the spec's decision
D19 (log 7). -/
def Obligations.StallHoldsDecode : Prop :=
  ∀ (i : Instr) (s : State), s.halted = none → NoDataError s →
    hazard s.cfg (decOf s.cfg.auipcEn i) s.idex s.exmem = true →
    ∃ t, exec i s = .next t ∧ t.idex = IdEx.bubbleAt s.ifid.pc ∧ t.ifid = s.ifid ∧ t.pc = s.pc ∧
      t.exmem = executeStage s.cfg s.idex s.exmem s.memwb (xAfterWb s) ∧
      memoryStage s.cfg s.exmem s.dmem = .ok (t.memwb, t.dmem) ∧ t.x = xAfterWb s ∧
      t.cycle = s.cycle + 1 ∧ t.halted = none ∧ t.cfg = s.cfg

/-- After two stalled cycles the third is never stalled, in every configuration (R127). -/
def Obligations.AtMostTwoStallsInARow : Prop :=
  ∀ s s1 s2 : State, stallWire s = true → step s = .next s1 → s1.halted = none →
    stallWire s1 = true → step s1 = .next s2 → s2.halted = none → stallWire s2 = false

/-- When Decode stalls, written out over the bits of the word in `IFID`: which registers it reads by its opcode, the
load-use condition, the interlock of BRANCH and JALR, and the condition without forwarding (45_hazard_unit.md R122 to
R125, 30_encoding.md R71 to R73). The interlock is the spec's decision D16, that opcode 0x17 never reads a register
D24 (log 16). The opcode numbers and the positions of the register fields are the spec's decision D1 (R57, R66, log
6). -/
def Obligations.StallConditions : Prop :=
  ∀ s : State,
    let w := s.ifid.instr
    let o := w.extractLsb' 0 7
    let reads : RegIdx → Prop := fun r => r ≠ 0#5 ∧
      ((o ≠ 0x37#7 ∧ o ≠ 0x17#7 ∧ o ≠ 0x6F#7 ∧ w.extractLsb' 15 5 = r) ∨
        ((o = 0x33#7 ∨ o = 0x63#7 ∨ o = 0x23#7) ∧ w.extractLsb' 20 5 = r))
    let inEx := s.idex.live = true ∧ s.idex.ctrl.writesRegister = true ∧ reads s.idex.rd
    let inMem := s.exmem.live = true ∧ s.exmem.ctrl.writesRegister = true ∧ reads s.exmem.rd
    (stallWire s = true ↔
      s.ifid.live = true ∧
        if s.cfg.fwdEn then
          (s.idex.live = true ∧ s.idex.ctrl.readsMemory = true ∧ reads s.idex.rd) ∨
          (s.cfg.brInterlock = true ∧ (o = 0x63#7 ∨ o = 0x67#7) ∧
            (inEx ∨ (inMem ∧ s.exmem.ctrl.readsMemory = true)))
        else inEx ∨ inMem)

/-- The six points about the hazard unit: who produces, destination 0, source 0, immediate bits that lie where a
register index could, a producer other than a load, and that `MEMWB` plays no part (R128). The interlock, which point
5 leaves aside by opcode, is the spec's decision D16, that opcode 0x17 never reads a register D24 (log 16). The opcode
numbers three of its clauses are keyed by are the spec's decision D1 (R66, log 6). -/
def Obligations.HazardUnitPoints : Prop :=
  ∀ (cfg : Cfg) (d : Dec) (e : IdEx) (m : ExMem),
    ((∃ c, e.ctrl = ctrlOf c ∧ (c = .store ∨ c = .branch ∨ c = .unknown)) →
      hazard cfg d e m = hazard cfg d IdEx.invalid m) ∧
    ((∃ c, m.ctrl = ctrlOf c ∧ (c = .store ∨ c = .branch ∨ c = .unknown)) →
      hazard cfg d e m = hazard cfg d e ExMem.invalid) ∧
    (e.rd = 0#5 → hazard cfg d e m = hazard cfg d IdEx.invalid m) ∧
    (m.rd = 0#5 → hazard cfg d e m = hazard cfg d e ExMem.invalid) ∧
    (d.rs1 = 0#5 → ∀ r, d.reads r = true → d.rs2 = r ∧ usesRs2 d.opcode = true) ∧
    (d.rs2 = 0#5 → ∀ r, d.reads r = true → d.rs1 = r ∧ usesRs1 d.opcode = true) ∧
    ((d.opcode = 0x13#7 ∨ d.opcode = 0x03#7 ∨ d.opcode = 0x67#7) →
      ∀ r2, hazard cfg { d with rs2 := r2 } e m = hazard cfg d e m) ∧
    ((d.opcode = 0x37#7 ∨ d.opcode = 0x17#7 ∨ d.opcode = 0x6F#7) → hazard cfg d e m = false) ∧
    (cfg.fwdEn = true → e.ctrl.readsMemory = false → d.opcode ≠ 0x63#7 → d.opcode ≠ 0x67#7 →
      hazard cfg d e m = false) ∧
    (∀ (s : State) (w : MemWb), stallWire { s with memwb := w } = stallWire s)

/-- The forwarding selection, by strict priority: the Execute/Memory latch, the Memory/Writeback latch's selected
result, the register file; register 0 reads 0 (R129). -/
def Obligations.ForwardingPriority : Prop :=
  ∀ (cfg : Cfg) (r : RegIdx) (m : ExMem) (w : MemWb) (x : RegFile), cfg.fwdEn = true →
    let mE := r ≠ 0#5 ∧ m.live = true ∧ m.ctrl.writesRegister = true ∧ m.rd = r
    let mW := r ≠ 0#5 ∧ w.live = true ∧ w.ctrl.writesRegister = true ∧ w.rd = r
    (mE → operand cfg r m w x = m.aluResult) ∧
    (¬ mE → mW → operand cfg r m w x = if w.ctrl.resultIsMemoryData then w.memData else w.aluResult) ∧
    (¬ mE → ¬ mW → operand cfg r m w x = readReg x r) ∧
    (r = 0#5 → operand cfg r m w x = 0#32)

/-- Without forwarding there is no bypass: every operand, in Execute and in Decode, is the register as this cycle's
Writeback leaves it, whatever the latches ahead hold (R131). Shown for the operand selection, for both operands of every
class in Execute and in the resolution of every control-flow class in Decode; and written out for store data, for the
effective addresses of LOAD and STORE (R82, R89), and for the comparison of a BRANCH (R136). The opcode numbers and the
field positions the last clauses use are the spec's decision D1 (log 6). -/
def Obligations.NoForwardingReadsRegisterFile : Prop :=
  ∀ s s' : State, s.cfg.fwdEn = false → step s = .next s' → s'.halted = none →
    (∀ r, operandIn s r = readReg s'.x r) ∧
    (s.idex.live = true → s'.exmem = exLatch s.cfg s.idex
      (if usesRs1 s.idex.opcode then readReg s'.x s.idex.rs1 else 0#32)
      (if usesRs2 s.idex.opcode then readReg s'.x s.idex.rs2 else 0#32)) ∧
    (flushWire s = true → resolve s.cfg (decodedIn s) s.ifid.pc s.exmem s.memwb (xAfterWb s) =
      resolveWith (classOf s.cfg.auipcEn (decodedIn s).opcode) s.ifid.pc (decodedIn s).imm
        (readReg s'.x (decodedIn s).rs1) (readReg s'.x (decodedIn s).rs2)) ∧
    (s.idex.live = true → usesRs2 s.idex.opcode = true → s'.exmem.storeData = readReg s'.x s.idex.rs2) ∧
    (s.idex.live = true → (s.idex.opcode = 0x03#7 ∨ s.idex.opcode = 0x23#7) →
      s'.exmem.aluResult = readReg s'.x s.idex.rs1 + s.idex.imm) ∧
    (s.ifid.live = true → stallWire s = false → s.ifid.instr.extractLsb' 0 7 = 0x63#7 →
      ((resolve s.cfg (decodedIn s) s.ifid.pc s.exmem s.memwb (xAfterWb s)).1 = true ↔
        readReg s'.x (s.ifid.instr.extractLsb' 15 5) = readReg s'.x (s.ifid.instr.extractLsb' 20 5)))

/-- With the write-first register file the second case of the selection is redundant (R133 item 3). -/
def Obligations.SecondForwardingCaseIsRedundant : Prop :=
  ∀ (r : RegIdx) (m : ExMem) (w : MemWb) (x : RegFile),
    fwdSelect r m w (writebackStage w x) =
      if matchesExMem r m then m.aluResult else readReg (writebackStage w x) r

/-- The occupancy record of the next cycle, from that of this one: MEM and WB take over from the stage ahead, EX from
ID unless ID is stalled, ID from IF unless the word is flushed (R117 item 4, R120). The record is the spec's decision
D25, the same-cycle flush D17, INVALID past the end D30 (log 16). -/
def Obligations.OccupancyAdvances : Prop :=
  ∀ s s' : State, step s = .next s' → s'.halted = none →
    (occupancy s').wbPc = (occupancy s).memPc ∧
    (occupancy s').memPc = (occupancy s).exPc ∧
    (occupancy s').exPc = (if stallWire s then none else (occupancy s).idPc) ∧
    (occupancy s').idPc =
      (if stallWire s then (occupancy s).idPc else if flushWire s then none else (occupancy s).ifPc)

/-- The occupancy record of a cycle (R120): IF holds `pc` iff a fetch is made, which takes no stall, a `pc` in bounds,
and a Memory stage that raises nothing, since Fetch is not evaluated otherwise (R114, R147). A cycle that raises a data
error shows nothing in IF; that such a cycle has a record, and that a misaligned fetch shows in IF, is the model's
choice (log 19). The form of the record is the spec's decision D25. -/
def Obligations.OccupancyRecordOfACycle : Prop :=
  ∀ s : State, s.halted = none →
    ((occupancy s).ifPc = some s.pc ↔
      NoDataError s ∧ stallWire s = false ∧ s.pc.toNat < 4 * s.cfg.imem.length) ∧
    ((occupancy s).ifPc ≠ some s.pc → (occupancy s).ifPc = none) ∧
    (occupancy s).idPc = (if s.ifid.live then some s.ifid.pc else none) ∧
    (occupancy s).exPc = (if s.idex.live then some s.idex.pc else none) ∧
    (occupancy s).memPc = (if s.exmem.live then some s.exmem.pc else none) ∧
    (occupancy s).wbPc = (if s.memwb.live then some s.memwb.pc else none) ∧
    (∀ s' r, step s = .next s' → s'.halted = some r →
      (occupancy s).ifPc = if r.code = .misalignedFetch then some s.pc else none)

/-! ### Fatal errors -/

/-- The two data errors: when each is raised, the alignment test first and only in byte mode, the access not made,
and the halted state with its record, `x` as Writeback of the same cycle left it, all else unchanged. No other
cause raises them (R144, R145; the record R143, the state R147). The misalignment error (D13), what of the faulting cycle
is kept (D20, log 15) and the index of each address mode (D12, log 16) are the spec's decisions. -/
def Obligations.DataErrorsHalt : Prop :=
  (∀ s : State, s.halted = none → s.exmem.live = true →
    (s.exmem.ctrl.readsMemory = true ∨ s.exmem.ctrl.writesMemory = true) →
    let haltedBy := fun code : FatalCode =>
      { s with x := xAfterWb s, halted := some ⟨code, s.cycle + 1, s.exmem.pc, s.exmem.aluResult⟩ }
    ((s.cfg.dmemAddrMode = .byte ∧ s.exmem.aluResult.toNat % 4 ≠ 0) →
      step s = .next (haltedBy .misalignedData) ∧ ∀ i, exec i s = .next (haltedBy .misalignedData)) ∧
    ((s.cfg.dmemAddrMode = .byte → s.exmem.aluResult.toNat % 4 = 0) →
      s.cfg.dmemWords ≤ wordIndex s.cfg s.exmem.aluResult →
      step s = .next (haltedBy .dataOutOfBounds) ∧ ∀ i, exec i s = .next (haltedBy .dataOutOfBounds))) ∧
  (∀ (s s' : State) (r : FatalRecord), step s = .next s' → s'.halted = some r → r.code ≠ .misalignedFetch →
    s.exmem.live = true ∧ (s.exmem.ctrl.readsMemory = true ∨ s.exmem.ctrl.writesMemory = true) ∧
    (r.code = .misalignedData → s.cfg.dmemAddrMode = .byte ∧ s.exmem.aluResult.toNat % 4 ≠ 0) ∧
    (r.code = .dataOutOfBounds → s.cfg.dmemWords ≤ wordIndex s.cfg s.exmem.aluResult))

/-- A misaligned fetch halts in the cycle it is made: Writeback and the Memory stage of that cycle are kept, all else
is unchanged. No other cause raises it (60_exceptions.md R146, R147). The error and the order of its tests are the
spec's decision D14, what of the faulting cycle is kept D20, the alignment of data D13 (log 15), the address modes D12
(log 16). -/
def Obligations.MisalignedFetchHalts : Prop :=
  (∀ s : State, s.halted = none → NoDataError s → stallWire s = false →
    s.pc.toNat < 4 * s.cfg.imem.length → s.pc.toNat % 4 ≠ 0 →
    step s = .next { s with
      x := xAfterWb s
      dmem := if s.exmem.live = true ∧ s.exmem.ctrl.writesMemory = true then
        writeWord s.dmem (wordIndex s.cfg s.exmem.aluResult) s.exmem.storeData else s.dmem
      halted := some ⟨.misalignedFetch, s.cycle + 1, s.pc, s.pc⟩ }) ∧
  (∀ (s s' : State) (r : FatalRecord), step s = .next s' → s'.halted = some r → r.code = .misalignedFetch →
    NoDataError s ∧ stallWire s = false ∧ s.pc.toNat < 4 * s.cfg.imem.length ∧ s.pc.toNat % 4 ≠ 0)

/-! ### Memory -/

/-- `IFetch`: the bounds test before the alignment test, the word of `IMEM` at `addr[31:2]` (R38). The order of the
tests is the spec's decision D14 (log 15). -/
def Obligations.FetchPrimitive : Prop :=
  ∀ (cfg : Cfg) (addr : Word),
    (addr.toNat < 4 * cfg.imem.length → addr.toNat % 4 = 0 →
      ∃ h : addr.toNat / 4 < cfg.imem.length, ifetch cfg addr = .word (cfg.imem[addr.toNat / 4])) ∧
    (¬ addr.toNat < 4 * cfg.imem.length → ifetch cfg addr = .outside) ∧
    (addr.toNat < 4 * cfg.imem.length → addr.toNat % 4 ≠ 0 → ifetch cfg addr = .misaligned)

/-- `MemRead` and `MemWrite`: alignment in byte mode, then bounds, then the access to the whole word (R43, R44, R45).
The clauses of word mode are the spec's decision D12 (log 16), the misalignment error D13 (log 15). -/
def Obligations.DataAccessChecks : Prop :=
  ∀ (cfg : Cfg) (m : Memory) (ea v : Word),
    let idx := match cfg.dmemAddrMode with
      | .byte => ea.toNat / 4
      | .word => ea.toNat
    (cfg.dmemAddrMode = .byte → ea.toNat % 4 ≠ 0 →
      memRead cfg m ea = .error .misalignedData ∧ memWrite cfg m ea v = .error .misalignedData) ∧
    ((cfg.dmemAddrMode = .byte → ea.toNat % 4 = 0) → cfg.dmemWords ≤ idx →
      memRead cfg m ea = .error .dataOutOfBounds ∧ memWrite cfg m ea v = .error .dataOutOfBounds) ∧
    ((cfg.dmemAddrMode = .byte → ea.toNat % 4 = 0) → idx < cfg.dmemWords →
      memRead cfg m ea = .ok (readWord m idx) ∧ memWrite cfg m ea v = .ok (writeWord m idx v))

/-- In a canonical memory a word reads what was last written to it, and a write leaves every other word and every byte
outside the four alone (20_memory.md R45, R52). Bytes and their order are the model's choice (log 4, the spec's D22).
-/
def Obligations.LoadSeesLatestStore : Prop :=
  ∀ (m : Memory) (i : Nat) (v : Word), m.wf = true →
    (writeWord m i v).wf = true ∧ readWord (writeWord m i v) i = v ∧
    (∀ j, j ≠ i → readWord (writeWord m i v) j = readWord m j) ∧
    (∀ a, a < 4 * i ∨ 4 * i + 4 ≤ a → readByte (writeWord m i v) a = readByte m a)

/-! ### Every instruction runs to completion -/

/-- ADD, and class OP with another function code, through the whole pipeline: `x[rd]` receives the sum, or the value
of `ALU_EXT`, which is the sum by default; nothing when `rd = 0`; all else unchanged (R83, R84). `ALU_EXT` and its
default are the spec's decision D5 (logs 5, 16). That `pc` holds past the end is the spec's decision D15 (log 16), the
emptied latches are INVALID by D19 (log 7). The function codes that tell the named row of the class from the others
are the spec's decision D1 (R67, log 6). -/
def Obligations.OpClassRetires : Prop :=
  ∀ (rd rs1 rs2 : RegIdx) (s : State), Alone s →
    RetiresAs (.add rd rs1 rs2) s (s.ifid.pc + 4#32)
      (writeReg s.x rd (readReg s.x rs1 + readReg s.x rs2)) s.dmem ∧
    ∀ (funct3 : BitVec 3) (funct7 : BitVec 7), ¬ (funct3 = 0#3 ∧ funct7 = 0#7) →
      RetiresAs (.opOther funct3 funct7 rd rs1 rs2) s (s.ifid.pc + 4#32)
        (writeReg s.x rd (aluExt s.cfg .op funct3 funct7 (readReg s.x rs1) (readReg s.x rs2))) s.dmem ∧
      (s.cfg.aluExt = .add → RetiresAs (.opOther funct3 funct7 rd rs1 rs2) s (s.ifid.pc + 4#32)
        (writeReg s.x rd (readReg s.x rs1 + readReg s.x rs2)) s.dmem)

/-- ADDI, and class OP-IMM with another function code (R85, R86). `ALU_EXT` and its default are the spec's decision D5
(logs 5, 16). That `pc` holds past the end is the spec's decision D15 (log 16), the emptied latches are INVALID by D19
(log 7). The function codes that tell the named row of the class from the others are the spec's decision D1 (R67, log
6). -/
def Obligations.OpImmClassRetires : Prop :=
  ∀ (rd rs1 : RegIdx) (imm : BitVec 12) (s : State), Alone s →
    RetiresAs (.addi rd rs1 imm) s (s.ifid.pc + 4#32)
      (writeReg s.x rd (readReg s.x rs1 + imm.signExtend 32)) s.dmem ∧
    ∀ (funct3 : BitVec 3), funct3 ≠ 0#3 →
      RetiresAs (.opimmOther funct3 rd rs1 imm) s (s.ifid.pc + 4#32)
        (writeReg s.x rd (aluExt s.cfg .opImm funct3 (imm.extractLsb' 5 7) (readReg s.x rs1) (imm.signExtend 32)))
        s.dmem ∧
      (s.cfg.aluExt = .add → RetiresAs (.opimmOther funct3 rd rs1 imm) s (s.ifid.pc + 4#32)
        (writeReg s.x rd (readReg s.x rs1 + imm.signExtend 32)) s.dmem)

/-- LUI and AUIPC; without `AUIPC_EN` the AUIPC word writes nothing (R87, R88, R68). The U layout is the spec's
decision D2, the results D4 (log 6), the flag D24 (log 16). That `pc` holds past the end is the spec's decision D15
(log 16), the emptied latches are INVALID by D19 (log 7). -/
def Obligations.UpperImmediatesRetire : Prop :=
  ∀ (rd : RegIdx) (imm20 : BitVec 20) (s : State), Alone s →
    RetiresAs (.lui rd imm20) s (s.ifid.pc + 4#32) (writeReg s.x rd (imm20 ++ 0#12)) s.dmem ∧
    RetiresAs (.auipc rd imm20) s (s.ifid.pc + 4#32)
      (if s.cfg.auipcEn then writeReg s.x rd (s.ifid.pc + (imm20 ++ 0#12)) else s.x) s.dmem

/-- LW, and class LOAD with another `funct3`: the whole word at the effective address (R90, R91). The ignored `funct3`
(D6, log 8), the misalignment check (D13, log 15) and the address modes (D12, log 16) are the spec's decisions. That
`pc` holds past the end is the spec's decision D15 (log 16), the emptied latches are INVALID by D19 (log 7). The
function codes that tell the named row of the class from the others are the spec's decision D1 (R67, log 6). -/
def Obligations.LoadsRetire : Prop :=
  ∀ (rd rs1 : RegIdx) (imm : BitVec 12) (s : State), Alone s →
    let ea := readReg s.x rs1 + imm.signExtend 32
    AddressGood s.cfg ea →
    RetiresAs (.lw rd rs1 imm) s (s.ifid.pc + 4#32) (writeReg s.x rd (readWord s.dmem (wordIndex s.cfg ea))) s.dmem ∧
    ∀ funct3 : BitVec 3, funct3 ≠ 2#3 → RetiresAs (.loadOther funct3 rd rs1 imm) s (s.ifid.pc + 4#32)
      (writeReg s.x rd (readWord s.dmem (wordIndex s.cfg ea))) s.dmem

/-- SW, and class STORE with another `funct3`: the whole word of `rs2` at the effective address, no register, and no
byte outside the four (R92, R94). The ignored `funct3` (D6, log 8), the misalignment check (D13, log 15) and the
address modes (D12, log 16) are the spec's decisions. That `pc` holds past the end is the spec's decision D15 (log
16), the emptied latches are INVALID by D19 (log 7). The function codes that tell the named row of the class from the
others are the spec's decision D1 (R67, log 6). -/
def Obligations.StoresRetire : Prop :=
  ∀ (rs1 rs2 : RegIdx) (imm : BitVec 12) (s : State), Alone s →
    let ea := readReg s.x rs1 + imm.signExtend 32
    let idx := wordIndex s.cfg ea
    let dmem' := writeWord s.dmem idx (readReg s.x rs2)
    AddressGood s.cfg ea →
    RetiresAs (.sw rs1 rs2 imm) s (s.ifid.pc + 4#32) s.x dmem' ∧
    (∀ funct3 : BitVec 3, funct3 ≠ 2#3 → RetiresAs (.storeOther funct3 rs1 rs2 imm) s (s.ifid.pc + 4#32) s.x dmem') ∧
    (∀ a, a < 4 * idx ∨ 4 * idx + 4 ≤ a → readByte dmem' a = readByte s.dmem a)

/-- Loads and stores whose address fails a check halt in MEM, with the code of the first check that fails, the
instruction's address and the effective address; `rd = 0` makes no difference (R90, R92, R144, R145). The misalignment
error (D13), what of the faulting cycle is kept (D20, log 15), the address modes (D12, log 16) and the ignored
`funct3` (D6, log 8) are the spec's decisions. That `pc` holds past the end is the spec's decision D15 (log 16). The
function codes that tell the named row of the class from the others are the spec's decision D1 (R67, log 6). -/
def Obligations.LoadsAndStoresHaltOnBadAddress : Prop :=
  ∀ (i : Instr) (rd rs1 rs2 : RegIdx) (imm : BitVec 12) (funct3 : BitVec 3) (s : State), Alone s →
    (i = .lw rd rs1 imm ∨ i = .loadOther funct3 rd rs1 imm ∨ i = .sw rs1 rs2 imm ∨
      i = .storeOther funct3 rs1 rs2 imm) →
    let ea := readReg s.x rs1 + imm.signExtend 32
    ((s.cfg.dmemAddrMode = .byte ∧ ea.toNat % 4 ≠ 0) → HaltsInMemory i s .misalignedData ea) ∧
    ((s.cfg.dmemAddrMode = .byte → ea.toNat % 4 = 0) → s.cfg.dmemWords ≤ wordIndex s.cfg ea →
      HaltsInMemory i s .dataOutOfBounds ea)

/-- BEQ, and class BRANCH with another `funct3`: the next `pc`, nothing else, where it lies past the program's end
(R99, R100). `BranchesResolveInDecode` gives the next `pc` whatever lies there. The target formula (D8, log 6), the
ignored `funct3` (D7, log 8), the `pc` of a branch not taken (D18), the flush (D17, D30) and the pc hold past the end
(D15, log 16) are the spec's decisions. That `pc` holds past the end is the spec's decision D15 (log 16), the emptied
latches are INVALID by D19 (log 7). The function codes that tell the named row of the class from the others are the
spec's decision D1 (R67, log 6). -/
def Obligations.BranchesRetire : Prop :=
  ∀ (rs1 rs2 : RegIdx) (off : BitVec 12) (s : State), Alone s →
    let pc' := if readReg s.x rs1 = readReg s.x rs2 then s.ifid.pc + (off ++ 0#1 : BitVec 13).signExtend 32
      else s.ifid.pc + 4#32
    ¬ Fetchable s.cfg pc' →
    RetiresAs (.beq rs1 rs2 off) s pc' s.x s.dmem ∧
    ∀ funct3 : BitVec 3, funct3 ≠ 0#3 → RetiresAs (.branchOther funct3 rs1 rs2 off) s pc' s.x s.dmem

/-- JAL, JALR, and class JALR with another `funct3`: the link value `pc + 4` and the target, computed from the old
`rs1`, where it lies past the program's end (R101, R102, R103). The link value (D4) and the target formulas, with bit
0 of JALR's cleared (D8, log 6), the ignored `funct3` (D7, log 8), the flush (D17, D30) and the pc hold past the end
(D15, log 16) are the spec's decisions. That `pc` holds past the end is the spec's decision D15 (log 16), the emptied
latches are INVALID by D19 (log 7). The function codes that tell the named row of the class from the others are the
spec's decision D1 (R67, log 6). -/
def Obligations.JumpsRetire : Prop :=
  ∀ (rd rs1 : RegIdx) (s : State), Alone s →
    (∀ off : BitVec 20,
      let pc' := s.ifid.pc + (off ++ 0#1 : BitVec 21).signExtend 32
      ¬ Fetchable s.cfg pc' →
      RetiresAs (.jal rd off) s pc' (writeReg s.x rd (s.ifid.pc + 4#32)) s.dmem) ∧
    (∀ imm : BitVec 12,
      let pc' := (readReg s.x rs1 + imm.signExtend 32) &&& 0xFFFFFFFE#32
      ¬ Fetchable s.cfg pc' →
      RetiresAs (.jalr rd rs1 imm) s pc' (writeReg s.x rd (s.ifid.pc + 4#32)) s.dmem ∧
      ∀ funct3 : BitVec 3, funct3 ≠ 0#3 →
        RetiresAs (.jalrOther funct3 rd rs1 imm) s pc' (writeReg s.x rd (s.ifid.pc + 4#32)) s.dmem)

/-- An UNKNOWN word: `pc + 4`, nothing else; the SYSTEM, MISC-MEM and AMO words are among them (R104, R105, R106). The
three opcode numbers are general knowledge in the spec (log 6). That `pc` holds past the end is the spec's decision
D15 (log 16), the emptied latches are INVALID by D19 (log 7). The numbers of the class opcodes are the spec's decision
D1 (R66, log 6). -/
def Obligations.UnknownWordsRetire : Prop :=
  (∀ (w : Word) (s : State), Alone s → wellFormed s.cfg.auipcEn (.unknown w) = true →
    RetiresAs (.unknown w) s (s.ifid.pc + 4#32) s.x s.dmem) ∧
  (∀ (auipcEn : Bool) (w : Word),
    (w.extractLsb' 0 7 = 0x73#7 ∨ w.extractLsb' 0 7 = 0x0F#7 ∨ w.extractLsb' 0 7 = 0x2F#7) →
    decode auipcEn w = .unknown w)

/-- BEQ and its other function codes in any pipeline state in which they are decoded: taken iff the two operands are
equal, the next `pc` is the target or the branch's own `pc + 4`, and the word fetched behind is flushed in either case
(R99, R136, R137, R138). The target formula (D8, log 6), the ignored `funct3` (D7, log 8), the redirect to the
branch's own `pc + 4` (D18), the flush in the same cycle (D17) and INVALID past the end (D30, log 16) are the spec's
decisions. The function codes that tell the named row of the class from the others are the spec's decision D1 (R67,
log 6). -/
def Obligations.BranchesResolveInDecode : Prop :=
  ∀ (i : Instr) (rs1 rs2 : RegIdx) (off : BitVec 12) (funct3 : BitVec 3) (s : State),
    (i = .beq rs1 rs2 off ∨ i = .branchOther funct3 rs1 rs2 off) → Issues i s →
    ∃ t, exec i s = .next t ∧
      t.pc = (if operandIn s rs1 = operandIn s rs2 then s.ifid.pc + (off ++ 0#1 : BitVec 13).signExtend 32
        else s.ifid.pc + 4#32) ∧
      t.ifid = flushedFetch s ∧ t.idex.live = true ∧ t.idex.pc = s.ifid.pc ∧ t.idex.ctrl.writesRegister = false

/-- JAL, JALR and its other function codes in any pipeline state in which they are decoded: always taken, the word
fetched behind is flushed (R101, R102, R103, R136). JAL never stalls. The target formulas, with bit 0 of JALR's
cleared (D8, log 6), the ignored `funct3` (D7, log 8), the flush in the same cycle (D17) and INVALID past the end
(D30, log 16) are the spec's decisions. The function codes that tell the named row of the class from the others are
the spec's decision D1 (R67, log 6). -/
def Obligations.JumpsRedirectInDecode : Prop :=
  (∀ (rd : RegIdx) (off : BitVec 20) (s : State), s.halted = none → NoDataError s → NoFetchError s →
    ∃ t, exec (.jal rd off) s = .next t ∧ t.pc = s.ifid.pc + (off ++ 0#1 : BitVec 21).signExtend 32 ∧
      t.ifid = flushedFetch s ∧ t.idex.live = true ∧ t.idex.pc = s.ifid.pc ∧ t.idex.rd = rd ∧
      t.idex.ctrl.writesRegister = true) ∧
  (∀ (i : Instr) (rd rs1 : RegIdx) (imm : BitVec 12) (funct3 : BitVec 3) (s : State),
    (i = .jalr rd rs1 imm ∨ i = .jalrOther funct3 rd rs1 imm) → Issues i s →
    ∃ t, exec i s = .next t ∧ t.pc = (operandIn s rs1 + imm.signExtend 32) &&& 0xFFFFFFFE#32 ∧
      t.ifid = flushedFetch s ∧ t.idex.live = true ∧ t.idex.pc = s.ifid.pc ∧ t.idex.rd = rd ∧
      t.idex.ctrl.writesRegister = true)

/-- The frame of the cycle in which any of the sixteen instructions is in Decode: it writes no register and no memory
itself; only the destination of the latch in Writeback and the four bytes the latch in Memory stores to can change,
and no parameter (R16, R42, R110, R111). In a cycle that halts the machine Writeback, and the store before a
misaligned fetch, are kept by the spec's decision D20 (log 15); the address modes are D12 (log 16), bytes and their
order the model's choice (log 4). -/
def Obligations.DecodeCycleFrame : Prop :=
  ∀ (i : Instr) (s t : State), exec i s = .next t →
    (∀ r : RegIdx, ¬ (s.memwb.live = true ∧ s.memwb.ctrl.writesRegister = true ∧ r = s.memwb.rd) →
      readReg t.x r = readReg s.x r) ∧
    (∀ a : Nat,
      ¬ (s.exmem.live = true ∧ s.exmem.ctrl.writesMemory = true ∧
        4 * wordIndex s.cfg s.exmem.aluResult ≤ a ∧ a < 4 * wordIndex s.cfg s.exmem.aluResult + 4) →
      readByte t.dmem a = readByte s.dmem a) ∧
    (s.dmem.wf = true → t.dmem.wf = true) ∧ t.cfg = s.cfg

/-! ### Reset and the end of a run -/

/-- Every element at its reset value, for every parameter record; the defaults of R9 (R162). The parameters and their
defaults are the spec's decisions D9, D10 and D11 (log 9), the zero payload of INVALID D19 (log 7), `cycle` and
`halted` D21 and D20, the reset input D23 (logs 15, 16); words past a short `DMEM_INIT` are 0 by log 3. -/
def Obligations.ResetValues : Prop :=
  (∀ cfg : Cfg,
    let s := State.resetWith cfg
    s.ifid = IfId.invalid ∧ s.idex = IdEx.invalid ∧ s.exmem = ExMem.invalid ∧ s.memwb = MemWb.invalid ∧
    s.pc = cfg.resetPc ∧ s.x[0] = 0#32 ∧ (∀ (k : Nat) (h : k < 32), k ≠ 0 → s.x[k] = cfg.rfInit[k]) ∧
    (∀ i, i < cfg.dmemWords → readWord s.dmem i = cfg.dmemInit.getD i 0#32) ∧
    s.cycle = 0 ∧ s.halted = none ∧ s.cfg = cfg) ∧
  (∀ s : State, clockEdge true s = .next (State.resetWith s.cfg)) ∧
  State.reset.pc = 0#32 ∧ (∀ r, readReg State.reset.x r = 0#32) ∧ (∀ i, readWord State.reset.dmem i = 0#32)

/-- The first cycle of a program from reset fetches word 0 and does nothing else (70_reset_and_hazards.md R163). The
numbering of cycles is the spec's decision D21 (log 16). -/
def Obligations.FirstCycleFetchesWordZero : Prop :=
  ∀ (cfg : Cfg) (w : Word) (rest : List Word), cfg.imem = w :: rest → cfg.resetPc = 0#32 →
    step (State.resetWith cfg) =
      .next { State.resetWith cfg with pc := 4#32, ifid := ⟨true, false, 0#32, w⟩, cycle := 1 }

/-- A drained state stays drained: a further cycle changes the cycle count and nothing a program could see, and
`pc` holds (R118, R140). That `pc` holds past the end is the spec's decision D15 (log 16). -/
def Obligations.DrainedStaysDrained : Prop :=
  ∀ s : State, s.halted = none → drained s = true → LatchesCanonical s →
    step s = .next { s with cycle := s.cycle + 1 } ∧ drained { s with cycle := s.cycle + 1 } = true

/-- The run loop ends, for every state and every program: drained, at the cycle limit, or halted (R119). The drained test
before each cycle is the spec's decision D21 (log 16); that a state drained at the limit counts as drained is the model's
choice (log 17). -/
def Obligations.RunEnds : Prop :=
  ∀ s : State, goesOn (runToEnd s) = false ∧
    (runOutcome (runToEnd s) = .limit → s.cfg.cycleLimit ≤ (runToEnd s).cycle) ∧
    (runOutcome (runToEnd s) = .drained → drained (runToEnd s) = true ∧ (runToEnd s).halted = none)

/-! ### Invariants and the reference semantics -/

/-- The pipeline invariant holds after reset, whatever the parameters. The values are the spec's decisions D9, D10,
D11 and D19 (logs 7, 9). -/
def Obligations.PipelineInvariantAtReset : Prop :=
  PipelineInvariant State.reset ∧ ∀ cfg, PipelineInvariant (State.resetWith cfg)

/-- Every step keeps the pipeline invariant: register 0 stays 0, memory stays canonical, no latch is a bubble that is
not valid and empty latches are canonical, live latches carry class tuples, a live `IFID` holds the program's word
with `pc` behind it, a faulting fetch is youngest, and operands of the instruction in Execute are fresh (R14, R25 to
R28, R69, R117, R133). The canonical empty latches are the spec's decision D19 (log 7), the faulting fetch D14 and the
halted states D20 (log 15), the interlock D16 (log 16), the tuples D3. -/
def Obligations.PipelineInvariantKept : Prop :=
  ∀ s s' : State, PipelineInvariant s → step s = .next s' → PipelineInvariant s'

/-- The pipeline computes what the sequential machine computes. The sequential state a pipeline state stands for
advances by exactly one instruction in a cycle that decodes one, and stays in every other cycle; a data error is the
error of the sequential machine, with its code, instruction and address; a misaligned fetch is the sequential
machine's next error. For every hazard-free configuration (R166, R167). Both machines follow the spec's decisions of
logs 6, 8, 15 and 16 alike; the hazard-free configurations are those with the interlock D16 or without forwarding. -/
def Obligations.PipelineRefinesSequential : Prop :=
  ∀ s s' : State, PipelineInvariant s → HazardFree s.cfg → step s = .next s' →
    (s'.halted = none → architecturalState s' =
      if s.ifid.live = true ∧ stallWire s = false then seqAdvance s.cfg (architecturalState s)
      else architecturalState s) ∧
    (∀ r, s'.halted = some r →
      (r.code ≠ .misalignedFetch → architecturalState s = .fatal r.code r.pc r.addr) ∧
      (r.code = .misalignedFetch → seqAdvance s.cfg (architecturalState s) = .fatal r.code r.pc r.addr))

/-- A drained state stands for a stopped sequential machine with the same `x`, `dmem` and `pc` (R167). That `pc` holds
past the end is the spec's decision D15 (log 16). -/
def Obligations.DrainedStateIsFinalSequentialState : Prop :=
  ∀ s : State, drained s = true →
    architecturalState s = .running ⟨s.pc, s.x, s.dmem⟩ ∧
    seqAdvance s.cfg (architecturalState s) = .stopped ⟨s.pc, s.x, s.dmem⟩

/-- The whole run of any program, in every hazard-free configuration: where it drains, the sequential machine started
from the same reset values stops with the same `pc`, `x` and `dmem`; where it halts, the sequential machine halts with
the same code, instruction and address (R167). A run that drains at the cycle limit counts as drained (log 17). Reset
values are the spec's decisions D9, D10 and D11 (log 9), the interlock D16, the drained test D21 (log 16), the halted
state D20 (log 15). -/
def Obligations.WholeRunsAgree : Prop :=
  ∀ cfg : Cfg, HazardFree cfg →
    let e := runToEnd (State.resetWith cfg)
    (runOutcome e = .drained → ∃ k, seqRun cfg k (seqReset cfg) = .stopped ⟨e.pc, e.x, e.dmem⟩) ∧
    (∀ r, runOutcome e = .halted r → ∃ k, seqRun cfg k (seqReset cfg) = .fatal r.code r.pc r.addr)
end

