-- ==== Sys2Proof/Laws/Memory.lean ====
section
/-! SUPPORT. Data memory: every operation keeps the canonical form, and what a read sees after a write. -/

namespace Sys2Proof.Machine

/-! ### The canonical form -/

theorem wfFrom_mono {lo lo' : Nat} (h : lo' ≤ lo) : ∀ m : Memory, Memory.wfFrom lo m = true → Memory.wfFrom lo' m = true
  | [], _ => rfl
  | (k, b) :: rest, hw => by
    simp only [Memory.wfFrom, Bool.and_eq_true, decide_eq_true_eq] at hw ⊢
    exact ⟨⟨h.trans hw.1.1, hw.1.2⟩, hw.2⟩

theorem writeByte_wfFrom {lo : Nat} : ∀ (m : Memory) (a : Nat) (v : Byte),
    lo ≤ a → Memory.wfFrom lo m = true → Memory.wfFrom lo (writeByte m a v) = true
  | [], a, v, ha, _ => by
    by_cases hv : v = 0#8 <;> simp [writeByte, Memory.wfFrom, hv, ha]
  | (k, b) :: rest, a, v, ha, hw => by
    have hw' := hw
    simp only [Memory.wfFrom, Bool.and_eq_true, decide_eq_true_eq] at hw'
    obtain ⟨⟨hk, hb⟩, hr⟩ := hw'
    unfold writeByte
    split
    · rename_i hak
      split
      · exact hw
      · rename_i hv
        simp only [Memory.wfFrom, Bool.and_eq_true, decide_eq_true_eq]
        exact ⟨⟨ha, by simpa using hv⟩, ⟨⟨hak, hb⟩, hr⟩⟩
    · split
      · subst_vars
        split
        · exact wfFrom_mono (by omega) _ hr
        · rename_i hv
          simp only [Memory.wfFrom, Bool.and_eq_true, decide_eq_true_eq]
          exact ⟨⟨ha, by simpa using hv⟩, hr⟩
      · simp only [Memory.wfFrom, Bool.and_eq_true, decide_eq_true_eq]
        exact ⟨⟨hk, hb⟩, writeByte_wfFrom rest a v (by omega) hr⟩

/-- Writing a byte keeps the canonical form. -/
theorem writeByte_wf {m : Memory} (h : m.wf = true) (a : Nat) (v : Byte) : Memory.wf (writeByte m a v) = true :=
  writeByte_wfFrom m a v (Nat.zero_le _) h

/-- Writing a word keeps the canonical form. -/
theorem writeWord_wf {m : Memory} (h : m.wf = true) (i : Nat) (v : Word) : Memory.wf (writeWord m i v) = true :=
  writeByte_wf (writeByte_wf (writeByte_wf (writeByte_wf h _ _) _ _) _ _) _ _

/-- A store keeps the canonical form. -/
theorem memWrite_wf {cfg : Cfg} {m m' : Memory} {ea v : Word} (h : m.wf = true)
    (hw : memWrite cfg m ea v = .ok m') : m'.wf = true := by
  unfold memWrite at hw
  split at hw
  · cases hw
  · cases hw; exact writeWord_wf h _ _

theorem ofBytes_wfFrom : ∀ (bs : List Byte) (a : Nat), Memory.wfFrom a (Memory.ofBytes a bs) = true
  | [], _ => rfl
  | b :: rest, a => by
    unfold Memory.ofBytes
    split
    · exact wfFrom_mono (Nat.le_succ a) _ (ofBytes_wfFrom rest (a + 1))
    · rename_i hb
      simp only [Memory.wfFrom, Bool.and_eq_true, decide_eq_true_eq]
      exact ⟨⟨le_rfl, by simpa using hb⟩, ofBytes_wfFrom rest (a + 1)⟩

/-- The memory of every reset state is in canonical form. -/
theorem resetWith_dmem_wf (cfg : Cfg) : (State.resetWith cfg).dmem.wf = true := ofBytes_wfFrom _ 0

/-- The memory of the reset state is in canonical form. -/
theorem reset_dmem_wf : State.reset.dmem.wf = true := resetWith_dmem_wf _

/-! ### Reads after writes -/

/-- A write leaves every other byte alone. -/
theorem readByte_writeByte_other : ∀ (m : Memory) (a b : Nat) (v : Byte), a ≠ b →
    readByte (writeByte m a v) b = readByte m b
  | [], a, b, v, h => by by_cases hv : v = 0#8 <;> simp [writeByte, readByte, hv, h]
  | (k, c) :: rest, a, b, v, h => by
    have ih := readByte_writeByte_other rest a b v h
    unfold writeByte
    split
    · split
      · rfl
      · simp [readByte, h]
    · split
      · subst_vars
        split <;> simp [readByte, h]
      · simp only [readByte, ih]

theorem readByte_below : ∀ (m : Memory) (lo a : Nat), Memory.wfFrom lo m = true → a < lo → readByte m a = 0#8
  | [], _, _, _, _ => rfl
  | (k, b) :: rest, lo, a, hw, h => by
    simp only [Memory.wfFrom, Bool.and_eq_true, decide_eq_true_eq] at hw
    have : k ≠ a := by omega
    simp only [readByte, this, if_false]
    exact readByte_below rest (k + 1) a hw.2 (by omega)

theorem readByte_writeByte_same_from : ∀ (m : Memory) (lo a : Nat) (v : Byte), Memory.wfFrom lo m = true →
    readByte (writeByte m a v) a = v
  | [], _, a, v, _ => by
    by_cases hv : v = 0#8 <;> simp [writeByte, readByte, hv]
  | (k, b) :: rest, lo, a, v, hw => by
    have hw' := hw
    simp only [Memory.wfFrom, Bool.and_eq_true, decide_eq_true_eq] at hw'
    unfold writeByte
    split
    · rename_i hak
      split
      · rename_i hv
        have hk : k ≠ a := by omega
        simp only [readByte, hk, if_false, hv]
        exact readByte_below rest (k + 1) a hw'.2 (by omega)
      · simp [readByte]
    · split
      · subst_vars
        split
        · rename_i hv
          rw [hv]; exact readByte_below rest _ _ hw'.2 (by omega)
        · simp [readByte]
      · rename_i hak
        have hk : k ≠ a := fun h => hak h.symm
        simp only [readByte, hk, if_false]
        exact readByte_writeByte_same_from rest (k + 1) a v hw'.2

/-- In a canonical memory a read of the byte written gives the value written. -/
theorem readByte_writeByte_same {m : Memory} (h : m.wf = true) (a : Nat) (v : Byte) :
    readByte (writeByte m a v) a = v :=
  readByte_writeByte_same_from m 0 a v h

/-! ### The Memory stage -/

/-- What a Memory stage that raises nothing leaves: the canonical form is kept. -/
theorem memoryStage_wf {cfg : Cfg} {m : ExMem} {dmem dmem' : Memory} {w : MemWb} (h : dmem.wf = true)
    (hs : memoryStage cfg m dmem = .ok (w, dmem')) : dmem'.wf = true := by
  unfold memoryStage at hs
  split at hs
  · cases hs; exact h
  split at hs
  · cases hs; exact h
  split at hs
  · cases hs
  split at hs
  · cases hs
  rename_i hst
  unfold storeOf at hst
  cases hs
  split at hst
  · exact memWrite_wf h hst
  · cases hst; exact h

end Sys2Proof.Machine
end

