-- ==== Sys2Proof/Laws/Registers.lean ====
section
/-! SUPPORT. The register file: what one read sees after one write, and what Writeback does. -/

namespace Sys2Proof.Machine

/-- A read of `x[0]` is 0. -/
@[simp] theorem readReg_zero (x : RegFile) : readReg x 0#5 = 0#32 := by simp [readReg]

/-- A write to `x[0]` is dropped. -/
@[simp] theorem writeReg_zero (x : RegFile) (v : Word) : writeReg x 0#5 v = x := by simp [writeReg]

/-- What a read sees after a write. -/
theorem readReg_writeReg (x : RegFile) (rd r : RegIdx) (v : Word) :
    readReg (writeReg x rd v) r = if r ≠ 0#5 ∧ r = rd then v else readReg x r := by
  unfold readReg writeReg
  by_cases h0 : r = 0#5
  · simp [h0]
  by_cases hd : rd = 0#5
  · have : r ≠ rd := fun h => h0 (h.trans hd)
    simp [hd, h0]
  by_cases he : r = rd
  · subst he; simp [h0]
  · have hn : rd.toNat ≠ r.toNat := fun h => he (BitVec.eq_of_toNat_eq h).symm
    simp [h0, hd, he, hn]

/-- Entry 0 of the file is never written. -/
theorem writeReg_entry_zero (x : RegFile) (rd : RegIdx) (v : Word) : (writeReg x rd v)[0] = x[0] := by
  unfold writeReg
  by_cases hd : rd = 0#5
  · simp [hd]
  · have hn : rd.toNat ≠ 0 := fun h => hd (BitVec.eq_of_toNat_eq (by simpa using h))
    simp [hd, hn]

/-- A latch that is not live commits nothing (R32, R110). -/
theorem writebackStage_of_not_live {w : MemWb} (h : w.live = false) (x : RegFile) : writebackStage w x = x := by
  simp [writebackStage, h]

/-- Writeback never touches entry 0. -/
theorem writebackStage_entry_zero (w : MemWb) (x : RegFile) : (writebackStage w x)[0] = x[0] := by
  unfold writebackStage
  split
  · exact writeReg_entry_zero ..
  · rfl

end Sys2Proof.Machine
end

