-- ==== Sys2Proof/Laws/State.lean ====
section
/-! SUPPORT. One lemma per field and update of State: the fatal transition, the commit of a cycle, the placing of a
fetched word. -/

namespace Sys2Proof.Machine

/-! ### `raiseFatal` -/

section
variable (s : State) (x : RegFile) (dmem : Memory) (code : FatalCode) (p a : Word)

@[simp] theorem raiseFatal_pc : (raiseFatal s x dmem code p a).pc = s.pc := rfl
@[simp] theorem raiseFatal_x : (raiseFatal s x dmem code p a).x = x := rfl
@[simp] theorem raiseFatal_dmem : (raiseFatal s x dmem code p a).dmem = dmem := rfl
@[simp] theorem raiseFatal_ifid : (raiseFatal s x dmem code p a).ifid = s.ifid := rfl
@[simp] theorem raiseFatal_idex : (raiseFatal s x dmem code p a).idex = s.idex := rfl
@[simp] theorem raiseFatal_exmem : (raiseFatal s x dmem code p a).exmem = s.exmem := rfl
@[simp] theorem raiseFatal_memwb : (raiseFatal s x dmem code p a).memwb = s.memwb := rfl
@[simp] theorem raiseFatal_cycle : (raiseFatal s x dmem code p a).cycle = s.cycle := rfl
@[simp] theorem raiseFatal_halted :
    (raiseFatal s x dmem code p a).halted = some ⟨code, s.cycle + 1, p, a⟩ := rfl
@[simp] theorem raiseFatal_cfg : (raiseFatal s x dmem code p a).cfg = s.cfg := rfl

end

/-! ### `commitCycle` -/

section
variable (s : State) (p : Word) (x : RegFile) (dmem : Memory) (f : IfId) (e : IdEx) (m : ExMem) (w : MemWb)

@[simp] theorem commitCycle_pc : (commitCycle s p x dmem f e m w).pc = p := rfl
@[simp] theorem commitCycle_x : (commitCycle s p x dmem f e m w).x = x := rfl
@[simp] theorem commitCycle_dmem : (commitCycle s p x dmem f e m w).dmem = dmem := rfl
@[simp] theorem commitCycle_ifid : (commitCycle s p x dmem f e m w).ifid = f := rfl
@[simp] theorem commitCycle_idex : (commitCycle s p x dmem f e m w).idex = e := rfl
@[simp] theorem commitCycle_exmem : (commitCycle s p x dmem f e m w).exmem = m := rfl
@[simp] theorem commitCycle_memwb : (commitCycle s p x dmem f e m w).memwb = w := rfl
@[simp] theorem commitCycle_cycle : (commitCycle s p x dmem f e m w).cycle = s.cycle + 1 := rfl
@[simp] theorem commitCycle_halted : (commitCycle s p x dmem f e m w).halted = s.halted := rfl
@[simp] theorem commitCycle_cfg : (commitCycle s p x dmem f e m w).cfg = s.cfg := rfl

end

/-! ### `placeFetched` -/

section
variable (s : State) (w : Word)

@[simp] theorem placeFetched_pc : (placeFetched s w).pc = s.pc + 4#32 := rfl
@[simp] theorem placeFetched_x : (placeFetched s w).x = s.x := rfl
@[simp] theorem placeFetched_dmem : (placeFetched s w).dmem = s.dmem := rfl
@[simp] theorem placeFetched_ifid : (placeFetched s w).ifid = ⟨true, false, s.pc, w⟩ := rfl
@[simp] theorem placeFetched_idex : (placeFetched s w).idex = IdEx.invalid := rfl
@[simp] theorem placeFetched_exmem : (placeFetched s w).exmem = ExMem.invalid := rfl
@[simp] theorem placeFetched_memwb : (placeFetched s w).memwb = s.memwb := rfl
@[simp] theorem placeFetched_cycle : (placeFetched s w).cycle = s.cycle := rfl
@[simp] theorem placeFetched_halted : (placeFetched s w).halted = none := rfl
@[simp] theorem placeFetched_cfg :
    (placeFetched s w).cfg = { s.cfg with imem := placeWord s.cfg.imem (s.pc.toNat / 4) w } := rfl

end

/-! ### Empty latches -/

@[simp] theorem ifid_invalid_live : IfId.invalid.live = false := rfl
@[simp] theorem idex_invalid_live : IdEx.invalid.live = false := rfl
@[simp] theorem idex_bubble_live (p : Word) : (IdEx.bubbleAt p).live = false := rfl
@[simp] theorem exmem_invalid_live : ExMem.invalid.live = false := rfl
@[simp] theorem exmem_bubble_live (p : Word) : (ExMem.bubbleAt p).live = false := rfl
@[simp] theorem memwb_invalid_live : MemWb.invalid.live = false := rfl
@[simp] theorem memwb_bubble_live (p : Word) : (MemWb.bubbleAt p).live = false := rfl
@[simp] theorem dec_latch_live (d : Dec) (p : Word) : (d.latch p).live = true := rfl

end Sys2Proof.Machine
end

