-- ==== Sys2Proof/Laws/Cycle.lean ====
section
/-! SUPPORT. What a clock cycle can do, said once: the inversion lemma of `cycleWith`, and the form of `exec` and `step`
that later proofs cite instead of unfolding them. -/

namespace Sys2Proof.Machine

/-- Everything `finishCycle` can give: the misaligned-fetch halt or the commit. -/
theorem finishCycle_cases (s : State) (x : RegFile) (w : MemWb) (dmem : Memory) (o : DecodeOut) :
    (fetchStage s o = none ∧ finishCycle s x w dmem o = raiseFatal s x dmem .misalignedFetch s.pc s.pc) ∨
    ∃ f p, fetchStage s o = some (f, p) ∧
      finishCycle s x w dmem o =
        commitCycle s p x dmem f o.idex (executeStage s.cfg s.idex s.exmem s.memwb x) w := by
  unfold finishCycle
  cases h : fetchStage s o with
  | none => exact .inl ⟨rfl, rfl⟩
  | some fp => exact .inr ⟨fp.1, fp.2, rfl, rfl⟩

/-- Everything a cycle that answers a next state can have done: halted on a data error in MEM, halted on a
misaligned fetch, or committed (R110 to R115, R147). -/
theorem cycleWith_cases {s s' : State} {o : RegFile → DecodeOut} (h : cycleWith s o = .next s') :
    s.halted = none ∧
    ((∃ code, memoryStage s.cfg s.exmem s.dmem = .error code ∧
        s' = raiseFatal s (writebackStage s.memwb s.x) s.dmem code s.exmem.pc s.exmem.aluResult) ∨
     ∃ w dmem, memoryStage s.cfg s.exmem s.dmem = .ok (w, dmem) ∧
       ((fetchStage s (o (writebackStage s.memwb s.x)) = none ∧
          s' = raiseFatal s (writebackStage s.memwb s.x) dmem .misalignedFetch s.pc s.pc) ∨
        ∃ f p, fetchStage s (o (writebackStage s.memwb s.x)) = some (f, p) ∧
          s' = commitCycle s p (writebackStage s.memwb s.x) dmem f (o (writebackStage s.memwb s.x)).idex
            (executeStage s.cfg s.idex s.exmem s.memwb (writebackStage s.memwb s.x)) w)) := by
  unfold cycleWith at h
  cases hh : s.halted with
  | some r => simp [hh] at h
  | none =>
    refine ⟨rfl, ?_⟩
    cases hm : memoryStage s.cfg s.exmem s.dmem with
    | error code =>
      refine .inl ⟨code, rfl, ?_⟩
      simp only [hh, hm] at h
      cases h; rfl
    | ok wd =>
      refine .inr ⟨wd.1, wd.2, rfl, ?_⟩
      simp only [hh, hm] at h
      cases h
      exact finishCycle_cases ..

/-- A cycle from a state that is not halted answers a next state, whatever Decode puts out. -/
theorem cycleWith_next {s : State} (h : s.halted = none) (o : RegFile → DecodeOut) :
    ∃ s', cycleWith s o = .next s' := by
  unfold cycleWith
  cases hm : memoryStage s.cfg s.exmem s.dmem <;> simp [h]

/-- A halted state has no next state. -/
theorem cycleWith_halted {s : State} {r : FatalRecord} (h : s.halted = some r) (o : RegFile → DecodeOut) :
    cycleWith s o = .fault (.halted r) := by
  simp [cycleWith, h]

/-- Every meaning is the cycle that issues the instruction's decode record. -/
theorem exec_eq_issue (i : Instr) (s : State) : exec i s = issue s (decOf s.cfg.auipcEn i) := by
  cases i <;> rfl

/-- What Decode puts out in the cycle that starts at `s`. -/
def decodeOut (s : State) (x : RegFile) : DecodeOut :=
  if s.ifid.live then decodeLive s (decOf s.cfg.auipcEn (decode s.cfg.auipcEn s.ifid.instr)) x else decodeIdle s.ifid

/-- A step is a cycle with that output of Decode. -/
theorem step_eq_cycleWith (s : State) : step s = cycleWith s (decodeOut s) := by
  unfold step
  by_cases h : s.ifid.live = true
  · simp only [h, if_true, exec_eq_issue, issue]
    congr 1
    funext x
    simp [decodeOut, h]
  · simp only [h, idleCycle, Bool.false_eq_true, if_false]
    congr 1
    funext x
    simp [decodeOut, h]

end Sys2Proof.Machine
end

