-- ==== Sys2Proof/Laws/PerInstr.lean ====
section
/-! SUPPORT. The family `OpcodeOfClass`, one lemma per constructor of `Instr`: the word of a well-formed instruction
carries an opcode whose class, by the class map of spec/30_encoding.md R66, is the instruction's own. -/

namespace Sys2Proof.Laws.OpcodeOfClass

/-- The class an instruction belongs to (R66, R67). -/
def classOfInstr : Instr → OpClass
  | .add _ _ _ | .opOther _ _ _ _ _ => .op
  | .addi _ _ _ | .opimmOther _ _ _ _ => .opImm
  | .lw _ _ _ | .loadOther _ _ _ _ => .load
  | .sw _ _ _ | .storeOther _ _ _ _ => .store
  | .beq _ _ _ | .branchOther _ _ _ _ => .branch
  | .jalr _ _ _ | .jalrOther _ _ _ _ => .jalr
  | .jal _ _ => .jal
  | .lui _ _ => .lui
  | .auipc _ _ => .auipc
  | .unknown _ => .unknown

/-- The class of the encoded word is the class of the instruction. -/
def Statement (i : Instr) : Prop :=
  ∀ auipcEn, wellFormed auipcEn i = true → classOf auipcEn (opcodeField (encode i)) = classOfInstr i

/-- The low seven bits of a concatenation that ends in an opcode are that opcode. -/
theorem opcodeField_append (v : BitVec 25) (o : Opcode) : opcodeField (v ++ o : Word) = o := by
  apply BitVec.eq_of_getLsbD_eq
  intro k hk
  rw [opcodeField, BitVec.getLsbD_extractLsb', BitVec.getLsbD_append]
  simp [hk]

theorem encodeR_opcode (f7 : BitVec 7) (rs2 rs1 : RegIdx) (f3 : BitVec 3) (rd : RegIdx) (o : Opcode) :
    opcodeField (encodeR f7 rs2 rs1 f3 rd o) = o := opcodeField_append (f7 ++ rs2 ++ rs1 ++ f3 ++ rd) o
theorem encodeI_opcode (imm : BitVec 12) (rs1 : RegIdx) (f3 : BitVec 3) (rd : RegIdx) (o : Opcode) :
    opcodeField (encodeI imm rs1 f3 rd o) = o := opcodeField_append (imm ++ rs1 ++ f3 ++ rd) o
theorem encodeS_opcode (imm : BitVec 12) (rs2 rs1 : RegIdx) (f3 : BitVec 3) (o : Opcode) :
    opcodeField (encodeS imm rs2 rs1 f3 o) = o :=
  opcodeField_append (imm.extractLsb' 5 7 ++ rs2 ++ rs1 ++ f3 ++ imm.extractLsb' 0 5) o
theorem encodeB_opcode (off : BitVec 12) (rs2 rs1 : RegIdx) (f3 : BitVec 3) (o : Opcode) :
    opcodeField (encodeB off rs2 rs1 f3 o) = o :=
  opcodeField_append (off.extractLsb' 11 1 ++ off.extractLsb' 4 6 ++ rs2 ++ rs1 ++ f3 ++ off.extractLsb' 0 4
    ++ off.extractLsb' 10 1) o
theorem encodeU_opcode (imm20 : BitVec 20) (rd : RegIdx) (o : Opcode) : opcodeField (encodeU imm20 rd o) = o :=
  opcodeField_append (imm20 ++ rd) o
theorem encodeJ_opcode (off : BitVec 20) (rd : RegIdx) (o : Opcode) : opcodeField (encodeJ off rd o) = o :=
  opcodeField_append (off.extractLsb' 19 1 ++ off.extractLsb' 0 10 ++ off.extractLsb' 10 1 ++ off.extractLsb' 11 8
    ++ rd) o

theorem add (rd rs1 rs2 : RegIdx) : Statement (.add rd rs1 rs2) := by
  intro en _; simp only [encode, encodeR_opcode, classOfInstr]; rfl
theorem addi (rd rs1 : RegIdx) (imm : BitVec 12) : Statement (.addi rd rs1 imm) := by
  intro en _; simp only [encode, encodeI_opcode, classOfInstr]; rfl
theorem lw (rd rs1 : RegIdx) (imm : BitVec 12) : Statement (.lw rd rs1 imm) := by
  intro en _; simp only [encode, encodeI_opcode, classOfInstr]; rfl
theorem sw (rs1 rs2 : RegIdx) (imm : BitVec 12) : Statement (.sw rs1 rs2 imm) := by
  intro en _; simp only [encode, encodeS_opcode, classOfInstr]; rfl
theorem beq (rs1 rs2 : RegIdx) (off : BitVec 12) : Statement (.beq rs1 rs2 off) := by
  intro en _; simp only [encode, encodeB_opcode, classOfInstr]; rfl
theorem jalr (rd rs1 : RegIdx) (imm : BitVec 12) : Statement (.jalr rd rs1 imm) := by
  intro en _; simp only [encode, encodeI_opcode, classOfInstr]; rfl
theorem jal (rd : RegIdx) (off : BitVec 20) : Statement (.jal rd off) := by
  intro en _; simp only [encode, encodeJ_opcode, classOfInstr]; rfl
theorem lui (rd : RegIdx) (imm20 : BitVec 20) : Statement (.lui rd imm20) := by
  intro en _; simp only [encode, encodeU_opcode, classOfInstr]; rfl
theorem auipc (rd : RegIdx) (imm20 : BitVec 20) : Statement (.auipc rd imm20) := by
  intro en h; simp only [encode, encodeU_opcode, classOfInstr]
  simp only [wellFormed] at h; subst h; rfl
theorem opOther (funct3 : BitVec 3) (funct7 : BitVec 7) (rd rs1 rs2 : RegIdx) :
    Statement (.opOther funct3 funct7 rd rs1 rs2) := by
  intro en _; simp only [encode, encodeR_opcode, classOfInstr]; rfl
theorem opimmOther (funct3 : BitVec 3) (rd rs1 : RegIdx) (imm : BitVec 12) :
    Statement (.opimmOther funct3 rd rs1 imm) := by
  intro en _; simp only [encode, encodeI_opcode, classOfInstr]; rfl
theorem loadOther (funct3 : BitVec 3) (rd rs1 : RegIdx) (imm : BitVec 12) :
    Statement (.loadOther funct3 rd rs1 imm) := by
  intro en _; simp only [encode, encodeI_opcode, classOfInstr]; rfl
theorem storeOther (funct3 : BitVec 3) (rs1 rs2 : RegIdx) (imm : BitVec 12) :
    Statement (.storeOther funct3 rs1 rs2 imm) := by
  intro en _; simp only [encode, encodeS_opcode, classOfInstr]; rfl
theorem branchOther (funct3 : BitVec 3) (rs1 rs2 : RegIdx) (off : BitVec 12) :
    Statement (.branchOther funct3 rs1 rs2 off) := by
  intro en _; simp only [encode, encodeB_opcode, classOfInstr]; rfl
theorem jalrOther (funct3 : BitVec 3) (rd rs1 : RegIdx) (imm : BitVec 12) :
    Statement (.jalrOther funct3 rd rs1 imm) := by
  intro en _; simp only [encode, encodeI_opcode, classOfInstr]; rfl
theorem unknown (w : Word) : Statement (.unknown w) := by
  intro en h; simpa [wellFormed, encode, classOfInstr] using h

end Sys2Proof.Laws.OpcodeOfClass
end

