-- ==== Sys2Proof/Laws/Stages.lean ====
section
/-! SUPPORT. One lemma for each shared operation that says everything it can do: the access checks, the fetch, the
stages, the hazard unit on empty latches. -/

namespace Sys2Proof.Machine

/-! ### Addresses -/

/-- `addr[1:0] != 0` in terms of the number. -/
theorem misaligned_iff (a : Word) : misaligned a = true ↔ a.toNat % 4 ≠ 0 := by
  have h : (a.extractLsb' 0 2).toNat = a.toNat % 4 := by simp
  unfold misaligned
  rw [bne_iff_ne, ne_eq, ← BitVec.toNat_inj, h]
  simp

theorem inBounds_iff (cfg : Cfg) (a : Word) : inBounds cfg a = true ↔ a.toNat < 4 * cfg.imem.length := by
  simp [inBounds]

/-- Everything the access check can answer. -/
theorem accessError_cases (cfg : Cfg) (ea : Word) :
    ((cfg.dmemAddrMode = .byte ∧ ea.toNat % 4 ≠ 0) ∧ accessError cfg ea = some .misalignedData) ∨
    ((cfg.dmemAddrMode = .byte → ea.toNat % 4 = 0) ∧ cfg.dmemWords ≤ wordIndex cfg ea ∧
      accessError cfg ea = some .dataOutOfBounds) ∨
    ((cfg.dmemAddrMode = .byte → ea.toNat % 4 = 0) ∧ wordIndex cfg ea < cfg.dmemWords ∧
      accessError cfg ea = none) := by
  unfold accessError
  simp only [misaligned_iff]
  by_cases h1 : cfg.dmemAddrMode = .byte ∧ ea.toNat % 4 ≠ 0
  · exact .inl ⟨h1, by rw [if_pos h1]⟩
  · have h1' : cfg.dmemAddrMode = .byte → ea.toNat % 4 = 0 := fun hm => by
      by_contra hne; exact h1 ⟨hm, hne⟩
    by_cases h2 : cfg.dmemWords ≤ wordIndex cfg ea
    · exact .inr (.inl ⟨h1', h2, by rw [if_neg h1, if_pos h2]⟩)
    · exact .inr (.inr ⟨h1', by omega, by rw [if_neg h1, if_neg h2]⟩)

/-- Everything a fetch can answer. -/
theorem ifetch_cases (cfg : Cfg) (a : Word) :
    (inBounds cfg a = false ∧ ifetch cfg a = .outside) ∨
    (inBounds cfg a = true ∧ a.toNat % 4 ≠ 0 ∧ ifetch cfg a = .misaligned) ∨
    (inBounds cfg a = true ∧ a.toNat % 4 = 0 ∧ ifetch cfg a = .word (imemWord cfg a)) := by
  unfold ifetch
  cases hb : inBounds cfg a
  · exact .inl ⟨rfl, by simp⟩
  by_cases hm : misaligned a = true
  · exact .inr (.inl ⟨rfl, (misaligned_iff a).1 hm, by simp [hm]⟩)
  · refine .inr (.inr ⟨rfl, ?_, by simp [hm]⟩)
    by_contra hne; exact hm ((misaligned_iff a).2 hne)

/-! ### The Memory stage -/

/-- An empty latch in MEM: the next `MEMWB` is empty, memory is unchanged (R111). -/
theorem memoryStage_of_not_live {cfg : Cfg} {m : ExMem} (h : m.live = false) (dmem : Memory) :
    memoryStage cfg m dmem = .ok (if m.valid then MemWb.bubbleAt m.pc else MemWb.invalid, dmem) := by
  unfold memoryStage
  cases hv : m.valid
  · simp
  · have hb : m.bubble = true := by simpa [ExMem.live, hv] using h
    simp [hb]

/-- A live latch in MEM whose access, if any, passes the checks (R111). -/
theorem memoryStage_of_live {cfg : Cfg} {m : ExMem} (h : m.live = true)
    (ha : m.ctrl.readsMemory = true ∨ m.ctrl.writesMemory = true → accessError cfg m.aluResult = none)
    (dmem : Memory) :
    memoryStage cfg m dmem =
      .ok (⟨true, false, m.pc, m.rd, m.ctrl, m.aluResult,
          if m.ctrl.readsMemory then readWord dmem (wordIndex cfg m.aluResult) else 0#32⟩,
        if m.ctrl.writesMemory then writeWord dmem (wordIndex cfg m.aluResult) m.storeData else dmem) := by
  obtain ⟨hv, hb⟩ : m.valid = true ∧ m.bubble = false := by simpa [ExMem.live] using h
  unfold memoryStage loadOf storeOf memRead memWrite
  cases hr : m.ctrl.readsMemory <;> cases hw : m.ctrl.writesMemory <;>
    simp_all

/-- A live latch in MEM whose access fails a check (R144, R145). -/
theorem memoryStage_of_error {cfg : Cfg} {m : ExMem} {code : FatalCode} (h : m.live = true)
    (ha : m.ctrl.readsMemory = true ∨ m.ctrl.writesMemory = true) (he : accessError cfg m.aluResult = some code)
    (dmem : Memory) : memoryStage cfg m dmem = .error code := by
  obtain ⟨hv, hb⟩ : m.valid = true ∧ m.bubble = false := by simpa [ExMem.live] using h
  unfold memoryStage loadOf storeOf memRead memWrite
  cases hr : m.ctrl.readsMemory <;> cases hw : m.ctrl.writesMemory <;> simp_all

/-- What makes the Memory stage raise an error. -/
theorem memoryStage_error_cases {cfg : Cfg} {m : ExMem} {dmem : Memory} {code : FatalCode}
    (h : memoryStage cfg m dmem = .error code) :
    m.live = true ∧ (m.ctrl.readsMemory = true ∨ m.ctrl.writesMemory = true) ∧
      accessError cfg m.aluResult = some code := by
  cases hl : m.live
  · rw [memoryStage_of_not_live hl] at h; cases h
  by_cases ha : m.ctrl.readsMemory = true ∨ m.ctrl.writesMemory = true
  · cases he : accessError cfg m.aluResult with
    | none => rw [memoryStage_of_live hl (fun _ => he)] at h; cases h
    | some c => rw [memoryStage_of_error hl ha he] at h; cases h; exact ⟨rfl, ha, rfl⟩
  · rw [memoryStage_of_live hl (fun h' => absurd h' ha)] at h; cases h

/-- When the Memory stage of a cycle raises an error: a live latch makes an access that fails a check (R144, R145). -/
theorem memoryRaises_iff (s : State) :
    memoryRaises s = true ↔ s.exmem.live = true ∧
      (s.exmem.ctrl.readsMemory = true ∨ s.exmem.ctrl.writesMemory = true) ∧
      accessError s.cfg s.exmem.aluResult ≠ none := by
  unfold memoryRaises
  constructor
  · intro h
    cases hm : memoryStage s.cfg s.exmem s.dmem with
    | ok wd => simp [hm] at h
    | error code =>
      obtain ⟨hl, ha, he⟩ := memoryStage_error_cases hm
      exact ⟨hl, ha, by simp [he]⟩
  · rintro ⟨hl, ha, he⟩
    obtain ⟨code, hc⟩ := Option.ne_none_iff_exists'.1 he
    simp [memoryStage_of_error hl ha hc]

/-! ### The Execute stage -/

/-- An empty latch in EX (R112). -/
theorem executeStage_of_not_live {cfg : Cfg} {e : IdEx} (h : e.live = false) (m : ExMem) (w : MemWb) (x : RegFile) :
    executeStage cfg e m w x = if e.valid then ExMem.bubbleAt e.pc else ExMem.invalid := by
  unfold executeStage
  cases hv : e.valid
  · simp
  · have hb : e.bubble = true := by simpa [IdEx.live, hv] using h
    simp [hb]

/-- An empty latch in EX leaves an empty latch. -/
theorem executeStage_not_live {cfg : Cfg} {e : IdEx} (h : e.live = false) (m : ExMem) (w : MemWb) (x : RegFile) :
    (executeStage cfg e m w x).live = false := by
  rw [executeStage_of_not_live h]; split <;> rfl

/-- A live latch in EX (R112). -/
theorem executeStage_of_live {cfg : Cfg} {e : IdEx} (h : e.live = true) (m : ExMem) (w : MemWb) (x : RegFile) :
    executeStage cfg e m w x =
      exLatch cfg e (if usesRs1 e.opcode then operand cfg e.rs1 m w x else 0#32)
        (if usesRs2 e.opcode then operand cfg e.rs2 m w x else 0#32) := by
  obtain ⟨hv, hb⟩ : e.valid = true ∧ e.bubble = false := by simpa [IdEx.live] using h
  simp [executeStage, hv, hb]

/-- With no live latch ahead an operand is the register's value. -/
theorem operand_of_empty {m : ExMem} {w : MemWb} (hm : m.live = false) (hw : w.live = false) (cfg : Cfg)
    (r : RegIdx) (x : RegFile) : operand cfg r m w x = readReg x r := by
  simp [operand, fwdSelect, matchesExMem, matchesMemWb, hm, hw]

/-! ### Decode and Fetch -/

/-- With no live latch ahead nothing stalls. -/
theorem hazard_of_empty {e : IdEx} {m : ExMem} (he : e.live = false) (hm : m.live = false) (cfg : Cfg) (d : Dec) :
    hazard cfg d e m = false := by
  simp [hazard, hzFwd, hzBranch, hzNoFwd, he, hm]

/-- A stalled cycle makes no fetch (R114). -/
theorem fetchStage_of_stall (s : State) {o : DecodeOut} (hs : o.stall = true) (hf : o.flush = false) :
    fetchStage s o = some (s.ifid, s.pc) := by
  simp [fetchStage, hs, hf]

/-- A cycle that does not stall fetches: everything it can give (R114, R138, R140). -/
theorem fetchStage_of_run (s : State) {o : DecodeOut} (hs : o.stall = false) :
    (ifetch s.cfg s.pc = .misaligned ∧ fetchStage s o = none) ∨
    (inBounds s.cfg s.pc = true ∧ s.pc.toNat % 4 = 0 ∧
      fetchStage s o = some (⟨true, o.flush, s.pc, imemWord s.cfg s.pc⟩,
        if o.flush then o.redirect else s.pc + 4#32)) ∨
    (inBounds s.cfg s.pc = false ∧
      fetchStage s o = some (IfId.invalid, if o.flush then o.redirect else s.pc)) := by
  unfold fetchStage nextPc
  rcases ifetch_cases s.cfg s.pc with ⟨hb, h⟩ | ⟨hb, hm, h⟩ | ⟨hb, hm, h⟩
  · exact .inr (.inr ⟨hb, by simp [hs, h, hb]⟩)
  · exact .inl ⟨h, by simp [hs, h]⟩
  · exact .inr (.inl ⟨hb, hm, by simp [hs, h, hb]⟩)

/-- Decode never stalls and flushes in one cycle (R117 item 1). -/
theorem decodeLive_not_both (s : State) (d : Dec) (x : RegFile) :
    (decodeLive s d x).stall = false ∨ (decodeLive s d x).flush = false := by
  unfold decodeLive; split
  · exact .inr rfl
  · split <;> exact .inl rfl

/-! ### A cycle from a state that is not halted -/

/-- The form of a cycle whose Memory stage raises nothing. -/
theorem cycleWith_of_ok {s : State} {w : MemWb} {dmem : Memory} (h : s.halted = none)
    (hm : memoryStage s.cfg s.exmem s.dmem = .ok (w, dmem)) (o : RegFile → DecodeOut) :
    cycleWith s o = .next (finishCycle s (writebackStage s.memwb s.x) w dmem (o (writebackStage s.memwb s.x))) := by
  simp [cycleWith, h, hm]

/-- The form of a cycle whose Memory stage raises an error. -/
theorem cycleWith_of_error {s : State} {code : FatalCode} (h : s.halted = none)
    (hm : memoryStage s.cfg s.exmem s.dmem = .error code) (o : RegFile → DecodeOut) :
    cycleWith s o =
      .next (raiseFatal s (writebackStage s.memwb s.x) s.dmem code s.exmem.pc s.exmem.aluResult) := by
  simp [cycleWith, h, hm]

/-- The form of a cycle whose Fetch gives a latch. -/
theorem finishCycle_of_some {s : State} {o : DecodeOut} {f : IfId} {p : Word} (h : fetchStage s o = some (f, p))
    (x : RegFile) (w : MemWb) (dmem : Memory) :
    finishCycle s x w dmem o =
      commitCycle s p x dmem f o.idex (executeStage s.cfg s.idex s.exmem s.memwb x) w := by
  simp [finishCycle, h]

end Sys2Proof.Machine
end

