-- ==== Sys2Proof/Tests/Slice0.lean ====
section
/-! SUPPORT. Tests. Expected results are those of spec/95_test_vectors.md (E1 to E8, P1, P5, P13, P14) or are worked by
hand from the rule a comment names. After them, for every obligation with hypotheses, a named witness that they can be met. -/

namespace Sys2Proof.Tests
open Sys2Proof Sys2Proof.Machine Sys2Proof.Safety Sys2Proof.Claims

/-! ### Well-formedness: one ill-formed term for each check -/

theorem test_wf_auipc_needs_flag : wellFormed false (.auipc 1 0) = false := by decide
theorem test_wf_opOther_not_add : wellFormed true (.opOther 0 0 1 2 3) = false := by decide
theorem test_wf_opimmOther_not_addi : wellFormed true (.opimmOther 0 1 2 3) = false := by decide
theorem test_wf_loadOther_not_lw : wellFormed true (.loadOther 2 1 2 3) = false := by decide
theorem test_wf_storeOther_not_sw : wellFormed true (.storeOther 2 1 2 3) = false := by decide
theorem test_wf_branchOther_not_beq : wellFormed true (.branchOther 0 1 2 3) = false := by decide
theorem test_wf_jalrOther_not_jalr : wellFormed true (.jalrOther 0 1 2 3) = false := by decide
theorem test_wf_unknown_not_a_class : wellFormed true (.unknown 0x00500093) = false := by decide
theorem test_wf_unknown_without_auipc : wellFormed false (.unknown 0x00001317) = true := by decide

/-! ### Decoding: a word of every constructor, field by field as R59 and R67 lay it out -/

/-- `funct7 | rs2 | rs1 | funct3 | rd | opcode` = 0 | 2 | 2 | 0 | 3 | 0x33 (E1, `0x002101B3`). -/
theorem test_decode_add : decode true 0b0000000_00010_00010_000_00011_0110011#32 = .add 3 2 2 := by decide
/-- `sub x3, x1, x2` is class OP with funct7 0x20 (E1, `0x402081B3`). -/
theorem test_decode_opOther : decode true 0b0100000_00010_00001_000_00011_0110011#32 = .opOther 0 0x20 3 1 2 := by decide
/-- `imm | rs1 | funct3 | rd | opcode` = -1 | 1 | 0 | 1 | 0x13 (E1, `0xFFF08093`). -/
theorem test_decode_addi : decode true 0b111111111111_00001_000_00001_0010011#32 = .addi 1 1 0xFFF := by decide
/-- `andi x1, x2, 15` is class OP-IMM with funct3 7 (E4, `0x00F17093`). -/
theorem test_decode_opimmOther : decode true 0b000000001111_00010_111_00001_0010011#32 = .opimmOther 7 1 2 15 := by decide
/-- `lw x2, -4(x3)` (E1, `0xFFC1A103`). -/
theorem test_decode_lw : decode true 0b111111111100_00011_010_00010_0000011#32 = .lw 2 3 0xFFC := by decide
/-- `lb x2, 8(x0)` is class LOAD with funct3 0 (E4, `0x00800103`). -/
theorem test_decode_loadOther : decode true 0b000000001000_00000_000_00010_0000011#32 = .loadOther 0 2 0 8 := by decide
/-- `imm[11:5] | rs2 | rs1 | funct3 | imm[4:0] | opcode`: `sw x5, -8(x6)` (E1, `0xFE532C23`). -/
theorem test_decode_sw : decode true 0b1111111_00101_00110_010_11000_0100011#32 = .sw 6 5 0xFF8 := by decide
/-- `sb x1, 8(x0)` is class STORE with funct3 0 (E4, `0x00100423`). -/
theorem test_decode_storeOther : decode true 0b0000000_00001_00000_000_01000_0100011#32 = .storeOther 0 0 1 8 := by decide
/-- `imm[12] | imm[10:5] | rs2 | rs1 | funct3 | imm[4:1] | imm[11] | opcode`: `beq x1, x2, -4` (E1, `0xFE208EE3`). -/
theorem test_decode_beq : decode true 0b1_111111_00010_00001_000_1110_1_1100011#32 = .beq 1 2 0xFFE := by decide
/-- `bne x1, x0, 16` is class BRANCH with funct3 1 (E4, `0x00009863`). -/
theorem test_decode_branchOther : decode true 0b0_000000_00000_00001_001_1000_0_1100011#32 = .branchOther 1 1 0 8 := by decide
/-- `imm[20] | imm[10:1] | imm[11] | imm[19:12] | rd | opcode`: `jal x0, 2048` sets `imm[11]` alone (E1, `0x0010006F`). -/
theorem test_decode_jal : decode true 0b0_0000000000_1_00000000_00000_1101111#32 = .jal 0 0x400 := by decide
/-- `jalr x1, x2, -2048` (E1, `0x800100E7`). -/
theorem test_decode_jalr : decode true 0b100000000000_00010_000_00001_1100111#32 = .jalr 1 2 0x800 := by decide
/-- Class JALR with funct3 3 (R67). -/
theorem test_decode_jalrOther : decode true 0b100000000000_00010_011_00001_1100111#32 = .jalrOther 3 1 2 0x800 := by decide
/-- `lui x5, 0x12345` (E1, `0x123452B7`). -/
theorem test_decode_lui : decode true 0b00010010001101000101_00101_0110111#32 = .lui 5 0x12345 := by decide
/-- `auipc x6, 0x80000` (E1, `0x80000317`); without `AUIPC_EN` the word is UNKNOWN (R68). -/
theorem test_decode_auipc : decode true 0b10000000000000000000_00110_0010111#32 = .auipc 6 0x80000 ∧
    decode false 0x80000317#32 = .unknown 0x80000317 := by decide
/-- The UNKNOWN words of E2: `ecall`, `fence`, all zeros, all ones. -/
theorem test_decode_unknown : decode true 0x00000073#32 = .unknown 0x00000073 ∧
    decode true 0x0FF0000F#32 = .unknown 0x0FF0000F ∧ decode true 0#32 = .unknown 0 ∧
    decode true 0xFFFFFFFF#32 = .unknown 0xFFFFFFFF := by decide

/-- The immediates of E1, with the extreme values of each format. -/
theorem test_immediates :
    (decOfWord true 0x7FF00093).imm = 0x7FF ∧ (decOfWord true 0x80000093).imm = 0xFFFFF800 ∧
    (decOfWord true 0xFE532C23).imm = 0xFFFFFFF8 ∧ (decOfWord true 0x7E112FA3).imm = 0x7FF ∧
    (decOfWord true 0x7E208FE3).imm = 0xFFE ∧ (decOfWord true 0x80208063).imm = 0xFFFFF000 ∧
    (decOfWord true 0xFF5FF06F).imm = 0xFFFFFFF4 ∧ (decOfWord true 0x800000EF).imm = 0xFFF00000 ∧
    (decOfWord true 0x7FFFF0EF).imm = 0x000FFFFE ∧ (decOfWord true 0xFFFFF2B7).imm = 0xFFFFF000 ∧
    (decOfWord true 0x00001317).imm = 0x1000 ∧ (decOfWord false 0x00001317).imm = 0 := by decide

/-- The encoder on words of E1, one for each format. -/
theorem test_encode : encode (.add 3 2 2) = 0x002101B3 ∧ encode (.addi 1 0 5) = 0x00500093 ∧
    encode (.sw 6 5 0xFF8) = 0xFE532C23 ∧ encode (.beq 1 2 0xFFE) = 0xFE208EE3 ∧
    encode (.jal 0 0xFFFFA) = 0xFF5FF06F ∧ encode (.lui 5 0x12345) = 0x123452B7 ∧
    encode (.jalr 2 1 8) = 0x00808167 ∧ encode (.lw 2 0 8) = 0x00802103 := by decide

/-- A list of three bytes holds no instruction; four bytes are read with the lowest address first (R47). -/
theorem test_decodeBytes : decodeBytes true [0x93, 0x00, 0x50] = .error .truncated ∧
    decodeBytes true [0x93, 0x00, 0x50, 0x00, 0xFF] = .ok (.addi 1 0 5, [0xFF]) := by decide

theorem test_decodeTableWord : decodeTableWord 32 0x00500093 = some (.addi 1 0 5) := by decide

/-! ### The small states of the vectors -/

/-- The parameters of the vectors, with a program and the forwarding flags. -/
def cfgOf (imem : List Word) (fwdEn brInterlock : Bool) : Cfg :=
  { Cfg.default with imem := imem, fwdEn := fwdEn, brInterlock := brInterlock, dmemWords := 64 }

/-- The registers of E4. -/
def regsE4 : RegFile :=
  (((((Vector.replicate 32 0#32).set 1 5#32).set 2 0x10#32).set 3 3#32).set 5 9#32).set 6 16#32

/-- The data memory of E4: word 2 is 7, word 4 is 0xAB. -/
def dmemE4 : Memory := [(8, 7#8), (16, 0xAB#8)]

/-- The sequential start state of E4. -/
def archE4 : ArchState := ⟨16, regsE4, dmemE4⟩

/-- One step of the sequential machine from E4's start state on a word at address 16. -/
def effectE4 (w : Word) : SeqOutcome := seqStep (cfgOf [0, 0, 0, 0, w] true true) archE4

/-- E4's state in the pipeline: the word is alone in Decode at address 16 and the program ends behind it. -/
def aloneE4 (w : Word) : State :=
  { State.resetWith (cfgOf [0, 0, 0, 0, w] true true) with
    pc := 20, x := regsE4, dmem := dmemE4, ifid := ⟨true, false, 16, w⟩ }

/-- E7's state: `IFID.pc = 8`, `pc = 12`, a program of 16 words, `x1` as given. -/
def stateE7 (w : Word) (x1 : Word) : State :=
  { State.resetWith (cfgOf (List.replicate 16 0#32) true true) with
    pc := 12, x := (Vector.replicate 32 0#32).set 1 x1, ifid := ⟨true, false, 8, w⟩ }

/-- A field of the next state, if there is one. -/
def afterStep {α : Type} (f : State → α) (s : State) : Option α :=
  match step s with
  | .next t => some (f t)
  | .fault _ => none
  | .refused _ => none

/-- A live load of `x1` in Execute. -/
def lwInEx : IdEx := (decLw 1 0 0).latch 0
/-- A live `addi` to `x1` in Execute. -/
def addiInEx : IdEx := (decAddi 1 0 0).latch 0
/-- A live load of `x1` in Memory. -/
def lwInMem : ExMem := ⟨true, false, 0, 1, ctrlOf .load, 0x10, false, 0⟩
/-- A live `addi` to `x1` in Memory with the given result. -/
def addiInMem (v : Word) : ExMem := ⟨true, false, 0, 1, ctrlOf .opImm, v, false, 0⟩

/-! ### Architectural effects: the rows of E4 -/

theorem test_e4_add : effectE4 0x002081B3 = .running ⟨20, regsE4.set 3 0x15, dmemE4⟩ ∧
    effectE4 0x001080B3 = .running ⟨20, regsE4.set 1 10, dmemE4⟩ ∧
    effectE4 0x00208033 = .running ⟨20, regsE4, dmemE4⟩ := by decide
theorem test_e4_opOther : effectE4 0x402081B3 = .running ⟨20, regsE4.set 3 0x15, dmemE4⟩ := by decide
theorem test_e4_addi : effectE4 0xFFF08093 = .running ⟨20, regsE4.set 1 4, dmemE4⟩ := by decide
theorem test_e4_opimmOther : effectE4 0x00F17093 = .running ⟨20, regsE4.set 1 0x1F, dmemE4⟩ := by decide
theorem test_e4_lui : effectE4 0x123452B7 = .running ⟨20, regsE4.set 5 0x12345000, dmemE4⟩ := by decide
theorem test_e4_auipc : effectE4 0x00001317 = .running ⟨20, regsE4.set 6 0x1010, dmemE4⟩ := by decide
theorem test_e4_lw : effectE4 0x00802103 = .running ⟨20, regsE4.set 2 7, dmemE4⟩ ∧
    effectE4 0x00012183 = .running ⟨20, regsE4.set 3 0xAB, dmemE4⟩ ∧
    effectE4 0xFFC32103 = .running ⟨20, regsE4.set 2 0, dmemE4⟩ := by decide
/-- The bounds of memory: index 63 is in, index 64 and a negative address are out. -/
theorem test_e4_lw_bounds : effectE4 0x0FC02083 = .running ⟨20, regsE4.set 1 0, dmemE4⟩ ∧
    effectE4 0x10002083 = .fatal .dataOutOfBounds 16 256 ∧
    effectE4 0xFFC02083 = .fatal .dataOutOfBounds 16 0xFFFFFFFC := by decide
theorem test_e4_loadOther : effectE4 0x00800103 = .running ⟨20, regsE4.set 2 7, dmemE4⟩ := by decide
theorem test_e4_sw : effectE4 0x00102423 = .running ⟨20, regsE4, [(8, 5#8), (16, 0xAB#8)]⟩ ∧
    effectE4 0xFE532C23 = .running ⟨20, regsE4, [(8, 9#8), (16, 0xAB#8)]⟩ := by decide
theorem test_e4_sw_misaligned : effectE4 0x0010A023 = .fatal .misalignedData 16 5 := by decide
theorem test_e4_storeOther : effectE4 0x00100423 = .running ⟨20, regsE4, [(8, 5#8), (16, 0xAB#8)]⟩ := by decide
theorem test_e4_beq : effectE4 0x00008863 = .running ⟨20, regsE4, dmemE4⟩ ∧
    effectE4 0x00000863 = .running ⟨32, regsE4, dmemE4⟩ ∧ effectE4 0xFE318EE3 = .running ⟨12, regsE4, dmemE4⟩ := by decide
theorem test_e4_branchOther : effectE4 0x00009863 = .running ⟨20, regsE4, dmemE4⟩ := by decide
theorem test_e4_jal : effectE4 0x008000EF = .running ⟨24, regsE4.set 1 20, dmemE4⟩ ∧
    effectE4 0xFF5FF06F = .running ⟨4, regsE4, dmemE4⟩ := by decide
/-- The target comes from the old `x1` when `rd = rs1`. -/
theorem test_e4_jalr : effectE4 0x00808167 = .running ⟨12, regsE4.set 2 20, dmemE4⟩ ∧
    effectE4 0x000080E7 = .running ⟨4, regsE4.set 1 20, dmemE4⟩ := by decide
/-- E4's `jalr x1, x1, 0` with funct3 1 (R103: `funct3` is ignored). -/
theorem test_e4_jalrOther : effectE4 0x000090E7 = .running ⟨4, regsE4.set 1 20, dmemE4⟩ := by decide
theorem test_e4_unknown : effectE4 0x00000073 = .running ⟨20, regsE4, dmemE4⟩ ∧
    effectE4 0 = .running ⟨20, regsE4, dmemE4⟩ := by decide
/-- With `AUIPC_EN` false the AUIPC word only advances `pc` (E4). -/
theorem test_e4_auipc_disabled :
    seqStep { cfgOf [0, 0, 0, 0, 0x00001317] true true with auipcEn := false } archE4 =
      .running ⟨20, regsE4, dmemE4⟩ := by decide
/-- `sub`, `sra` and `srai` under the RV32I table of 93 Part 3, worked by hand. -/
theorem test_rv32i_table : rv32iOp 0 0x20 5 7 = 0xFFFFFFFE ∧ rv32iOp 5 0x20 0x80000000 4 = 0xF8000000 ∧
    rv32iOpImm 5 0 0x80000000 4 = 0x08000000 ∧ rv32iOp 2 0 0xFFFFFFFF 1 = 1 ∧ rv32iOp 3 0 0xFFFFFFFF 1 = 0 ∧
    rv32iOp 1 1 5 7 = 12 := by decide
/-- The ALU rows of E3. -/
theorem test_e3_alu : aluExecute 0x7FFFFFFF 1 .add = (0x80000000, false) ∧
    aluExecute 0xFFFFFFFF 1 .add = (0, false) ∧ aluExecute 0xFFFFFFFF 0xFFFFFFFF .compare = (0, true) ∧
    aluExecute 0x80000000 0 .compare = (0, false) := by decide

/-! ### Reset and the fetch word -/

theorem test_reset_memory_canonical : State.reset.dmem.wf = true := by decide
/-- A memory write of 0 removes cells; a write keeps the cells rising. -/
theorem test_memory_canonical : writeWord [(8, 7#8)] 2 0 = [] ∧
    writeWord [(8, 7#8)] 1 0x01000002 = [(4, 2#8), (7, 1#8), (8, 7#8)] ∧ readWord [(4, 2#8), (7, 1#8)] 1 = 0x01000002 := by
  decide
/-- `DMEM_INIT` of P10: word 0 is 0xDEADBEEF. -/
theorem test_reset_dmemInit :
    readWord (State.resetWith { cfgOf [] true true with dmemInit := [0xDEADBEEF] }).dmem 0 = 0xDEADBEEF := by decide
theorem test_withFetchWord : (State.reset.withFetchWord 32 0x00500093).ifid = ⟨true, false, 0, 0x00500093⟩ ∧
    ifetch (State.reset.withFetchWord 32 0x00500093).cfg 0 = .word 0x00500093 ∧
    afterStep (fun t => (t.idex.live, t.idex.rd, t.idex.imm, t.pc)) (State.reset.withFetchWord 32 0x00500093) =
      some (true, 1, 5, 4) := by decide
/-- P1, cycle 1: word 0 is fetched, Decode holds nothing yet. -/
theorem test_first_cycle :
    afterStep (fun t => (t.ifid, t.pc, t.cycle)) (State.resetWith (cfgOf [0x00500093, 0x00108113] true true)) =
      some (⟨true, false, 0, 0x00500093⟩, 4, 1) := by decide

/-! ### One cycle of each instruction in Decode: what it writes into `IDEX` (E1, E2) and where `pc` goes -/

/-- `rd, rs1, rs2, imm` of the next `IDEX` and the next `pc`. -/
def decodeCycle (s : State) : Option (RegIdx × RegIdx × RegIdx × Word × Word) :=
  afterStep (fun t => (t.idex.rd, t.idex.rs1, t.idex.rs2, t.idex.imm, t.pc)) s

theorem test_cycle_add : decodeCycle (stateE7 0x002101B3 0) = some (3, 2, 2, 0, 16) := by decide
theorem test_cycle_opOther : decodeCycle (stateE7 0x402081B3 0) = some (3, 1, 2, 0, 16) ∧
    afterStep (fun t => t.idex.funct7) (stateE7 0x402081B3 0) = some 0x20 := by decide
/-- The raw `rs2` position of `addi x1, x1, -1` holds 31 (E1). -/
theorem test_cycle_addi : decodeCycle (stateE7 0xFFF08093 0) = some (1, 1, 31, 0xFFFFFFFF, 16) := by decide
theorem test_cycle_opimmOther : decodeCycle (stateE7 0x00F17093 0) = some (1, 2, 15, 15, 16) := by decide
theorem test_cycle_lw : decodeCycle (stateE7 0xFFC1A103 0) = some (2, 3, 28, 0xFFFFFFFC, 16) := by decide
theorem test_cycle_loadOther : decodeCycle (stateE7 0x00800103 0) = some (2, 0, 8, 8, 16) := by decide
/-- The raw `rd` position of `sw x5, -8(x6)` holds 24 (E1). -/
theorem test_cycle_sw : decodeCycle (stateE7 0xFE532C23 0) = some (24, 6, 5, 0xFFFFFFF8, 16) := by decide
theorem test_cycle_storeOther : decodeCycle (stateE7 0x00100423 0) = some (8, 0, 1, 8, 16) := by decide
theorem test_cycle_lui : afterStep (fun t => (t.idex.rd, t.idex.imm, t.pc)) (stateE7 0x123452B7 0) =
    some (5, 0x12345000, 16) := by decide
theorem test_cycle_auipc : afterStep (fun t => (t.idex.rd, t.idex.imm, t.pc)) (stateE7 0x80000317 0) =
    some (6, 0x80000000, 16) := by decide
theorem test_cycle_unknown : afterStep (fun t => (t.idex.live, t.idex.ctrl, t.pc)) (stateE7 0x00000073 0) =
    some (true, Ctrl.allFalse, 16) := by decide
/-- E7: `beq x1, x0, 16` taken and not taken; the word behind is flushed in both. -/
theorem test_e7_beq : afterStep (fun t => (t.pc, t.ifid)) (stateE7 0x00008863 0) = some (24, ⟨true, true, 12, 0⟩) ∧
    afterStep (fun t => (t.pc, t.ifid)) (stateE7 0x00008863 3) = some (12, ⟨true, true, 12, 0⟩) := by decide
/-- `bne x1, x0, 16` resolves as `beq` (R100). -/
theorem test_e7_branchOther : afterStep State.pc (stateE7 0x00009863 0) = some 24 := by decide
theorem test_e7_jal : afterStep State.pc (stateE7 0x008000EF 0) = some 16 ∧
    afterStep State.pc (stateE7 0xFF5FF06F 0) = some 0xFFFFFFFC := by decide
theorem test_e7_jalr : afterStep State.pc (stateE7 0x00808167 12) = some 20 ∧
    afterStep State.pc (stateE7 0x00008067 13) = some 12 ∧ afterStep State.pc (stateE7 0x00008067 14) = some 14 := by decide
theorem test_e7_jalrOther : afterStep State.pc (stateE7 0x0000B067 13) = some 12 := by decide
/-- E7, last row: `jal x0, 8` at 60, the last word: the fetch behind is out of bounds. -/
theorem test_e7_jal_at_end : afterStep (fun t => (t.pc, t.ifid))
    { stateE7 0x0080006F 0 with pc := 64, ifid := ⟨true, false, 60, 0x0080006F⟩ } = some (68, IfId.invalid) := by decide
/-- E7, the row before: the cycle after a `jalr` to 14 is a misaligned fetch. -/
theorem test_e7_misaligned_fetch : afterStep (fun t => (t.halted, t.cycle, t.pc))
    { stateE7 0 0 with pc := 14, ifid := ⟨true, true, 12, 0⟩ } =
      some (some ⟨.misalignedFetch, 1, 14, 14⟩, 0, 14) := by decide

/-! ### The hazard unit (E5) and forwarding (E6) -/

/-- The wire `stall` of a word against `IDEX` and `EXMEM`: forwarding, forwarding without interlock, no forwarding. -/
def stalls (w : Word) (e : IdEx) (m : ExMem) : Bool × Bool × Bool :=
  (hazard (cfgOf [] true true) (decOfWord true w) e m, hazard (cfgOf [] true false) (decOfWord true w) e m,
    hazard (cfgOf [] false true) (decOfWord true w) e m)

/-- `add x2, x1, x1`. -/
theorem test_e5_add : stalls 0x00108133 lwInEx ExMem.invalid = (true, true, true) ∧
    stalls 0x00108133 addiInEx ExMem.invalid = (false, false, true) ∧
    stalls 0x00108133 IdEx.invalid lwInMem = (false, false, true) ∧
    stalls 0x00108133 IdEx.invalid (addiInMem 0) = (false, false, true) ∧
    stalls 0x00108133 (IdEx.bubbleAt 0) (ExMem.bubbleAt 0) = (false, false, false) := by decide
/-- A `rs2` match; immediate bits that lie where an index could, of `addi x2, x3, 1`, LUI and JAL. -/
theorem test_e5_positions : stalls 0x00118133 lwInEx ExMem.invalid = (true, true, true) ∧
    stalls 0x00118113 lwInEx ExMem.invalid = (false, false, false) ∧
    stalls 0x000082B7 lwInEx ExMem.invalid = (false, false, false) ∧
    stalls 0x0000816F lwInEx ExMem.invalid = (false, false, false) := by decide
/-- `beq x1, x0, 8` and `jalr x0, x1, 0`. -/
theorem test_e5_decode_operands : stalls 0x00008463 addiInEx ExMem.invalid = (true, false, true) ∧
    stalls 0x00008463 IdEx.invalid (addiInMem 0) = (false, false, true) ∧
    stalls 0x00008463 lwInEx ExMem.invalid = (true, true, true) ∧
    stalls 0x00008463 IdEx.invalid lwInMem = (true, false, true) ∧
    stalls 0x00008067 addiInEx ExMem.invalid = (true, false, true) ∧
    stalls 0x000100E7 addiInEx ExMem.invalid = (false, false, false) := by decide
/-- UNKNOWN words: the `rs1` field counts, the `rs2` field does not. A store, and a load to `x0`, produce nothing. -/
theorem test_e5_unknown_and_producers : stalls 0x00008000 lwInEx ExMem.invalid = (true, true, true) ∧
    stalls 0x00100000 lwInEx ExMem.invalid = (false, false, false) ∧
    stalls 0x00108133 ((decSw 0 0 1).latch 0) ExMem.invalid = (false, false, false) ∧
    stalls 0x00000133 ((decLw 0 0 0).latch 0) ExMem.invalid = (false, false, false) := by decide

/-- The rows of E6, `x1 = 0x11`. -/
theorem test_e6_forwarding :
    let x : RegFile := (Vector.replicate 32 0#32).set 1 0x11#32
    let alu : MemWb := ⟨true, false, 0, 1, ctrlOf .opImm, 0x33, 0⟩
    let load : MemWb := ⟨true, false, 0, 1, ctrlOf .load, 0x10, 0x44⟩
    fwdSelect 1 (addiInMem 0x22) MemWb.invalid x = 0x22 ∧ fwdSelect 1 (addiInMem 0x22) alu x = 0x22 ∧
    fwdSelect 1 ExMem.invalid alu x = 0x33 ∧ fwdSelect 1 ExMem.invalid load x = 0x44 ∧
    fwdSelect 1 (ExMem.bubbleAt 0) (MemWb.bubbleAt 0) x = 0x11 ∧
    fwdSelect 1 { addiInMem 0x22 with ctrl := ctrlOf .store } MemWb.invalid x = 0x11 ∧
    fwdSelect 0 { addiInMem 0x22 with rd := 0 } MemWb.invalid x = 0 ∧ fwdSelect 1 lwInMem MemWb.invalid x = 0x10 := by
  decide

/-! ### Execute, Memory and Writeback in one cycle, and the halts (E8) -/

/-- P1 fwd, cycle 4: `addi x2, x1, 1` in Execute takes 5 from `EXMEM`. -/
def p1Cycle4 : State :=
  { State.resetWith (cfgOf [0x00500093, 0x00108113] true true) with
    pc := 8, idex := (decAddi 2 1 1).latch 4, exmem := { addiInMem 5 with pc := 0 }, cycle := 3 }

theorem test_p1_cycle4 : afterStep (fun t => (t.exmem.aluResult, t.exmem.rd, t.memwb.aluResult, t.cycle)) p1Cycle4 =
    some (6, 2, 5, 4) := by decide
/-- P1 fwd, cycle 5: `x1` is written. -/
theorem test_writeback : afterStep (fun t => (readReg t.x 1, readReg t.x 2))
    { p1Cycle4 with exmem := ExMem.invalid, memwb := ⟨true, false, 0, 1, ctrlOf .opImm, 5, 0⟩ } = some (5, 0) := by decide

/-- A state with the given latch in Memory, and E4's memory. -/
def stateInMem (m : ExMem) : State :=
  { State.resetWith (cfgOf [] true true) with dmem := dmemE4, exmem := m }

theorem test_memory_load : afterStep (fun t => (t.memwb.memData, t.dmem))
    (stateInMem { lwInMem with aluResult := 8 }) = some (7, dmemE4) := by decide
theorem test_memory_store : afterStep (fun t => (t.memwb.memData, t.dmem))
    (stateInMem ⟨true, false, 4, 0, ctrlOf .store, 252, false, 0x80000001⟩) =
      some (0, [(8, 7#8), (16, 0xAB#8), (252, 1#8), (255, 0x80#8)]) := by decide
/-- The store of P5 at 256: `DataOutOfBounds`, nothing stored. -/
theorem test_halt_bounds : afterStep (fun t => (t.halted, t.dmem))
    (stateInMem ⟨true, false, 4, 0, ctrlOf .store, 256, false, 1⟩) =
      some (some ⟨.dataOutOfBounds, 1, 4, 256⟩, dmemE4) := by decide
/-- A misaligned address past the end: alignment is tested first. In word mode it is not tested. -/
theorem test_halt_order : afterStep State.halted (stateInMem { lwInMem with aluResult := 0xFFFFFFFF }) =
      some (some ⟨.misalignedData, 1, 0, 0xFFFFFFFF⟩) ∧
    afterStep (fun t => (t.halted, t.memwb.memData))
      { stateInMem { lwInMem with aluResult := 2 } with
        cfg := { cfgOf [] true true with dmemAddrMode := .word } } = some (none, 7) := by decide
/-- R147 leaves Fetch unevaluated when Memory raises an error: the store at index 64 shows nothing in IF although `pc` is in
bounds; the store at index 63 raises nothing and the fetch shows. -/
theorem test_occupancy_of_faulting_cycle :
    (let s := { stateE7 0 0 with exmem := ⟨true, false, 4, 0, ctrlOf .store, 256, false, 1⟩ }
     (occupancy s).ifPc = none ∧ (occupancy s).memPc = some 4) ∧
    (occupancy { stateE7 0 0 with exmem := ⟨true, false, 4, 0, ctrlOf .store, 252, false, 1⟩ }).ifPc = some 12 := by decide
/-- A halted state has no next state. -/
theorem test_halted_absorbs : step { State.reset with halted := some ⟨.misalignedFetch, 1, 14, 14⟩ } =
    .fault (.halted ⟨.misalignedFetch, 1, 14, 14⟩) := rfl

/-! ### Witnesses: the hypotheses of every obligation can be met -/

/-- A step answers a next state that is not halted. -/
abbrev Completes (s : State) : Prop := ∃ s', step s = .next s' ∧ s'.halted = none

/-- A step answers a state halted with a code. -/
abbrev HaltsWith (s : State) (code : FatalCode) : Prop :=
  ∃ s' r, step s = .next s' ∧ s'.halted = some r ∧ r.code = code

/-- All five stages hold something: a word in Decode, `addi` in Execute, the given latch in Memory, `addi` in
Writeback to `rd`. -/
def fullState (m : ExMem) (rd : RegIdx) : State :=
  { stateE7 0x002101B3 0 with idex := addiInEx, exmem := m, memwb := ⟨true, false, 0, rd, ctrlOf .opImm, 5, 0⟩ }

theorem witness_DecodeInvertsEncode : wellFormed true (.opOther 7 0x7F 31 31 31) = true ∧
    wellFormed false (.unknown 0x00001317) = true := by decide

theorem witness_StepRunsDecodedInstruction :
    ((aloneE4 0x002081B3).ifid.live = true ∧ decode (aloneE4 0x002081B3).cfg.auipcEn (aloneE4 0x002081B3).ifid.instr = .add 3 1 2 ∧
      wellFormed (aloneE4 0x002081B3).cfg.auipcEn (.add 3 1 2) = true) ∧ State.reset.ifid.live = false := by decide

theorem witness_EveryCycleCompletesUnlessHalted : State.reset.halted = none ∧
    { State.reset with halted := some ⟨.misalignedFetch, 1, 14, 14⟩ }.halted = some ⟨.misalignedFetch, 1, 14, 14⟩ := by
  decide

/-- For the statements with the hypothesis that a step answers a next state, halted or not. -/
theorem witness_step : Completes (fullState lwInMem 1) ∧
    HaltsWith (stateInMem { lwInMem with aluResult := 256 }) .dataOutOfBounds ∧
    HaltsWith (stateInMem { lwInMem with aluResult := 5 }) .misalignedData ∧
    HaltsWith { stateE7 0 0 with pc := 14, ifid := IfId.invalid } .misalignedFetch :=
  ⟨⟨_, rfl, rfl⟩, ⟨_, _, rfl, rfl, rfl⟩, ⟨_, _, rfl, rfl, rfl⟩, ⟨_, _, rfl, rfl, rfl⟩⟩

/-- The same for the statements about `exec`. -/
theorem witness_exec : (∃ t, exec (.add 3 2 2) (fullState lwInMem 1) = .next t) ∧
    (∃ t, exec (.unknown 0) State.reset = .next t) := ⟨⟨_, rfl⟩, ⟨_, rfl⟩⟩

/-- `WritebackCommits`, `RegisterZeroIsHardwired`: a write of register 31, of register 0, and none. -/
theorem witness_WritebackCommits : Completes (fullState lwInMem 31) ∧ (fullState lwInMem 31).memwb.live = true ∧
    Completes (fullState lwInMem 0) ∧ (fullState lwInMem 0).memwb.rd = 0 ∧ Completes State.reset :=
  ⟨⟨_, rfl, rfl⟩, rfl, ⟨_, rfl, rfl⟩, rfl, ⟨_, rfl, rfl⟩⟩

/-- `MemoryStageActs`: an invalid latch, a bubble, a load at index 63 and a store at index 0. -/
theorem witness_MemoryStageActs : Completes (fullState ExMem.invalid 1) ∧ Completes (fullState (ExMem.bubbleAt 4) 1) ∧
    Completes (fullState { lwInMem with aluResult := 252 } 1) ∧
    Completes (fullState ⟨true, false, 4, 0, ctrlOf .store, 0, false, 9⟩ 1) :=
  ⟨⟨_, rfl, rfl⟩, ⟨_, rfl, rfl⟩, ⟨_, rfl, rfl⟩, ⟨_, rfl, rfl⟩⟩

/-- `ExecuteStageActs`: an invalid latch, a bubble and a live one. -/
theorem witness_ExecuteStageActs : Completes { fullState lwInMem 1 with idex := IdEx.invalid } ∧
    Completes { fullState lwInMem 1 with idex := IdEx.bubbleAt 4 } ∧
    (Completes (fullState lwInMem 1) ∧ (fullState lwInMem 1).idex.live = true) :=
  ⟨⟨_, rfl, rfl⟩, ⟨_, rfl, rfl⟩, ⟨_, rfl, rfl⟩, rfl⟩

/-- `DecodeAndFetchAct`, `OccupancyAdvances`: an invalid latch, a bubble, a live one that stalls, one that flushes, and
a `pc` at the program's end. -/
theorem witness_DecodeAndFetchAct : Completes { fullState lwInMem 1 with ifid := IfId.invalid } ∧
    Completes { fullState lwInMem 1 with ifid := ⟨true, true, 8, 0⟩ } ∧
    (Completes { stateE7 0x00108133 0 with idex := lwInEx } ∧
      stallWire { stateE7 0x00108133 0 with idex := lwInEx } = true) ∧
    (Completes (stateE7 0x00008863 0) ∧ flushWire (stateE7 0x00008863 0) = true) ∧
    (Completes (aloneE4 0x002081B3) ∧ (aloneE4 0x002081B3).pc.toNat = 4 * (aloneE4 0x002081B3).cfg.imem.length) :=
  ⟨⟨_, rfl, rfl⟩, ⟨_, rfl, rfl⟩, ⟨⟨_, rfl, rfl⟩, by decide⟩, ⟨⟨_, rfl, rfl⟩, by decide⟩, ⟨_, rfl, rfl⟩, by decide⟩

/-- `IssuedInstructionEntersExecute`, `BranchesResolveInDecode`, `JumpsRedirectInDecode`. -/
theorem witness_Issues : Issues (.add 3 2 2) (fullState lwInMem 1) ∧ Issues (.beq 1 0 8) (stateE7 0x00008863 0) ∧
    Issues (.branchOther 7 1 0 8) (stateE7 0x00008863 3) ∧ Issues (.jalr 2 1 8) (stateE7 0x00808167 12) ∧
    Issues (.jalrOther 7 0 1 0) (stateE7 0x00808167 12) := by decide
theorem witness_JumpsRedirectInDecode : (stateE7 0x008000EF 0).halted = none ∧ NoDataError (stateE7 0x008000EF 0) ∧
    NoFetchError (stateE7 0x008000EF 0) := by decide

/-- `OccupancyRecordOfACycle`: a cycle that fetches, one halted by a data error, one halted by a misaligned fetch. -/
theorem witness_OccupancyRecordOfACycle : (stateE7 0 0).halted = none ∧ NoDataError (stateE7 0 0) ∧
    HaltsWith { stateE7 0 0 with exmem := { lwInMem with aluResult := 256 } } .dataOutOfBounds ∧
    HaltsWith { stateE7 0 0 with pc := 14, ifid := IfId.invalid } .misalignedFetch :=
  ⟨rfl, by decide, ⟨_, _, rfl, rfl, rfl⟩, ⟨_, _, rfl, rfl, rfl⟩⟩

/-- A load-use stall (E5). -/
theorem witness_StallHoldsDecode : let s := { stateE7 0x00108133 0 with idex := lwInEx }
    s.halted = none ∧ NoDataError s ∧ hazard s.cfg (decOf s.cfg.auipcEn (.add 2 1 1)) s.idex s.exmem = true := by decide

/-- P1 nofwd, cycle 3: two stalls follow one another. -/
def p1NoFwdCycle3 : State :=
  { State.resetWith (cfgOf [0x00500093, 0x00108113] false true) with
    pc := 8, ifid := ⟨true, false, 4, 0x00108113⟩, idex := (decAddi 1 0 5).latch 0, cycle := 2 }

theorem witness_AtMostTwoStallsInARow : ∃ s1 s2, stallWire p1NoFwdCycle3 = true ∧ step p1NoFwdCycle3 = .next s1 ∧
    s1.halted = none ∧ stallWire s1 = true ∧ step s1 = .next s2 ∧ s2.halted = none :=
  ⟨_, _, by decide, rfl, rfl, by decide, rfl, rfl⟩

/-- One witness for each premise of `HazardUnitPoints`. -/
theorem witness_HazardUnitPoints : ((decSw 0 0 1).latch 0).ctrl = ctrlOf .store ∧
    ({ lwInMem with ctrl := ctrlOf .branch } : ExMem).ctrl = ctrlOf .branch ∧ ((decLw 0 0 0).latch 0).rd = 0 ∧
    ({ lwInMem with rd := 0 } : ExMem).rd = 0 ∧
    ((decAdd 2 0 1).rs1 = 0 ∧ (decAdd 2 0 1).reads 1 = true) ∧ ((decAdd 2 1 0).rs2 = 0 ∧ (decAdd 2 1 0).reads 1 = true) ∧
    (decAddi 2 3 1).opcode = 0x13 ∧ (decLui 5 8).opcode = 0x37 ∧
    ((cfgOf [] true true).fwdEn = true ∧ addiInEx.ctrl.readsMemory = false ∧ (decAdd 2 1 1).opcode ≠ 0x63 ∧
      (decAdd 2 1 1).opcode ≠ 0x67) := by decide

/-- One witness for each case of `ForwardingPriority`: both latches match, the second alone, none, register 0. -/
theorem witness_ForwardingPriority : (cfgOf [] true true).fwdEn = true ∧
    matchesExMem 1 (addiInMem 1) = true ∧ matchesMemWb 1 ⟨true, false, 0, 1, ctrlOf .load, 0, 5⟩ = true ∧
    matchesExMem 1 ExMem.invalid = false ∧ matchesMemWb 1 MemWb.invalid = false ∧ (0#5 : RegIdx) = 0 := by decide

/-- `NoForwardingReadsRegisterFile`: a store in Execute, a load in Execute, a BRANCH in Decode. -/
theorem witness_NoForwardingReadsRegisterFile :
    let noFwd := fun s : State => { s with cfg := { s.cfg with fwdEn := false } }
    let st := noFwd { fullState lwInMem 1 with idex := (decSw 1 2 4).latch 4 }
    let br := noFwd (stateE7 0x00008863 3)
    (st.cfg.fwdEn = false ∧ Completes st ∧ st.idex.live = true ∧ usesRs2 st.idex.opcode = true ∧ st.idex.opcode = 0x23) ∧
    (Completes (noFwd (fullState lwInMem 1)) ∧ Completes (noFwd { fullState lwInMem 1 with idex := lwInEx }) ∧
      lwInEx.opcode = 0x03) ∧
    (br.cfg.fwdEn = false ∧ Completes br ∧ br.ifid.live = true ∧ stallWire br = false ∧ flushWire br = true ∧
      br.ifid.instr.extractLsb' 0 7 = 0x63) :=
  ⟨⟨rfl, ⟨_, rfl, rfl⟩, rfl, by decide, by decide⟩, ⟨⟨_, rfl, rfl⟩, ⟨_, rfl, rfl⟩, by decide⟩,
    ⟨rfl, ⟨_, rfl, rfl⟩, rfl, by decide, by decide, by decide⟩⟩

/-- `DataErrorsHalt`: a misaligned address, and the first index past the end. -/
theorem witness_DataErrorsHalt :
    (let s := stateInMem { lwInMem with aluResult := 5 }
     s.halted = none ∧ s.exmem.live = true ∧ s.exmem.ctrl.readsMemory = true ∧ s.cfg.dmemAddrMode = .byte ∧
      s.exmem.aluResult.toNat % 4 ≠ 0) ∧
    (let s := stateInMem ⟨true, false, 4, 0, ctrlOf .store, 256, false, 1⟩
     s.halted = none ∧ s.exmem.live = true ∧ s.exmem.ctrl.writesMemory = true ∧
      (s.cfg.dmemAddrMode = .byte → s.exmem.aluResult.toNat % 4 = 0) ∧
      s.cfg.dmemWords = wordIndex s.cfg s.exmem.aluResult) := by decide

/-- `MisalignedFetchHalts`: the last misaligned address of the program. -/
theorem witness_MisalignedFetchHalts : let s := { stateE7 0 0 with pc := 63, ifid := IfId.invalid }
    s.halted = none ∧ NoDataError s ∧ stallWire s = false ∧ s.pc.toNat + 1 = 4 * s.cfg.imem.length ∧
      s.pc.toNat % 4 ≠ 0 := by decide

/-- `FetchPrimitive`: the last word, the first address past it, a misaligned address. -/
theorem witness_FetchPrimitive : let cfg := cfgOf [1, 2] true true
    ((4#32).toNat < 4 * cfg.imem.length ∧ (4#32).toNat % 4 = 0) ∧ ¬ (8#32).toNat < 4 * cfg.imem.length ∧
      ((7#32).toNat < 4 * cfg.imem.length ∧ (7#32).toNat % 4 ≠ 0) := by decide

/-- `DataAccessChecks`: addresses 253, 256 and 252, and indices 64 and 63 in word mode. -/
theorem witness_DataAccessChecks : let cfg := cfgOf [] true true
    (cfg.dmemAddrMode = .byte ∧ (253#32).toNat % 4 ≠ 0) ∧
    ((256#32).toNat % 4 = 0 ∧ cfg.dmemWords = (256#32).toNat / 4) ∧
    ((252#32).toNat % 4 = 0 ∧ (252#32).toNat / 4 + 1 = cfg.dmemWords) ∧
    (let word := { cfg with dmemAddrMode := .word }
     (word.dmemAddrMode = .byte → False) ∧ word.dmemWords ≤ (64#32).toNat ∧ (63#32).toNat < word.dmemWords) := by decide

theorem witness_LoadSeesLatestStore : Memory.wf dmemE4 = true ∧ (3 : Nat) ≠ 2 ∧ (7 < 4 * 2 ∨ 4 * 2 + 4 ≤ 7) ∧
    (12 < 4 * 2 ∨ 4 * 2 + 4 ≤ 12) := by decide

/-- The state of the `…Retire` statements. -/
theorem witness_Alone : Alone (aloneE4 0x002081B3) := by decide

/-- `OpClassRetires`, `OpImmClassRetires`, `UnknownWordsRetire`: function codes and words of the other rows, and the
default `ALU_EXT`. -/
theorem witness_OtherRows : ¬ ((0#3) = 0#3 ∧ (0x20#7) = 0#7) ∧ (7#3) ≠ 0#3 ∧ (3#3) ≠ 2#3 ∧
    (aloneE4 0x402081B3).cfg.aluExt = .add ∧ wellFormed (aloneE4 0x73).cfg.auipcEn (.unknown 0x73) = true ∧
    (0x0FF0000F#32).extractLsb' 0 7 = 0x0F#7 := by decide

/-- `LoadsRetire`, `StoresRetire`: `lw x1, 252(x0)` and `sw x5, -8(x6)`; in word mode any index below the end. -/
theorem witness_AddressGood : Alone (aloneE4 0x0FC02083) ∧
    AddressGood (aloneE4 0x0FC02083).cfg (readReg (aloneE4 0x0FC02083).x 0 + (252#12).signExtend 32) ∧
    AddressGood (aloneE4 0xFE532C23).cfg (readReg (aloneE4 0xFE532C23).x 6 + (0xFF8#12).signExtend 32) ∧
    AddressGood { cfgOf [] true true with dmemAddrMode := .word } 63 := by decide

/-- `LoadsAndStoresHaltOnBadAddress`: `sw x1, 0(x1)` at 5, `lw x1, 256(x0)` at index 64. -/
theorem witness_LoadsAndStoresHaltOnBadAddress : Alone (aloneE4 0x0010A023) ∧
    (let s := aloneE4 0x0010A023
     s.cfg.dmemAddrMode = .byte ∧ (readReg s.x 1 + (0#12).signExtend 32).toNat % 4 ≠ 0) ∧
    (let s := aloneE4 0x10002083
     (readReg s.x 0 + (256#12).signExtend 32).toNat % 4 = 0 ∧
      s.cfg.dmemWords = wordIndex s.cfg (readReg s.x 0 + (256#12).signExtend 32)) := by decide

/-- `BranchesRetire`: E4's `beq x0, x0, 16` (to 32) and `beq x1, x0, 16` (to 20) in a program that ends at 20. -/
theorem witness_BranchesRetire : Alone (aloneE4 0x00000863) ∧ readReg (aloneE4 0x00000863).x 0 = 0 ∧
    ¬ Fetchable (aloneE4 0x00000863).cfg ((aloneE4 0x00000863).ifid.pc + (8#12 ++ 0#1 : BitVec 13).signExtend 32) ∧
    readReg (aloneE4 0x00008863).x 1 ≠ readReg (aloneE4 0x00008863).x 0 ∧
    ¬ Fetchable (aloneE4 0x00008863).cfg ((aloneE4 0x00008863).ifid.pc + 4#32) := by decide

/-- `JumpsRetire`: E4's `jal x1, 8` (to 24), and `jalr x2, x2, 4` (to 20, the end itself). -/
theorem witness_JumpsRetire : Alone (aloneE4 0x008000EF) ∧
    ¬ Fetchable (aloneE4 0x008000EF).cfg ((aloneE4 0x008000EF).ifid.pc + (4#20 ++ 0#1 : BitVec 21).signExtend 32) ∧
    ¬ Fetchable (aloneE4 0x00410167).cfg
      ((readReg (aloneE4 0x00410167).x 2 + (4#12).signExtend 32) &&& 0xFFFFFFFE#32) := by decide

/-- `DecodeCycleFrame`: a canonical memory, with a load in Memory and a write in Writeback. -/
theorem witness_DecodeCycleFrame :
    (∃ t, exec (.add 3 2 2) { fullState { lwInMem with ctrl := ctrlOf .store } 1 with dmem := dmemE4 } = .next t) ∧
    Memory.wf dmemE4 = true := ⟨⟨_, rfl⟩, by decide⟩

theorem witness_ResetValues : 63 < (cfgOf [] true true).dmemWords ∧ (31 : Nat) < 32 ∧ (31 : Nat) ≠ 0 := by decide

theorem witness_FirstCycleFetchesWordZero : (cfgOf [0x00500093, 0x00108113] true true).imem = 0x00500093 :: [0x00108113] ∧
    (cfgOf [0x00500093, 0x00108113] true true).resetPc = 0 := by decide

/-- A drained state that is not the reset state: P1's end. -/
def p1End : State :=
  { State.resetWith (cfgOf [0x00500093, 0x00108113] true true) with
    pc := 8, x := ((Vector.replicate 32 0#32).set 1 5#32).set 2 6#32, cycle := 6 }

theorem witness_DrainedStaysDrained : p1End.halted = none ∧ drained p1End = true ∧ LatchesCanonical p1End := by decide

/-- `RunEnds`: a drained end and an end at the cycle limit. -/
theorem witness_RunEnds : runOutcome (runToEnd p1End) = .drained ∧
    runOutcome (runToEnd (aloneE4 0x002081B3)) = .limit := by decide

/-- The pipeline invariant in a state with every latch live: an UNKNOWN word in Decode, and
`addi`, a load and `addi` ahead of it. -/
def invState (m : ExMem) : State :=
  { stateE7 0 0 with
    idex := (decAddi 3 2 1).latch 4, exmem := m, memwb := ⟨true, false, 0, 4, ctrlOf .opImm, 5, 0⟩, dmem := dmemE4 }

theorem witness_PipelineInvariant (m : ExMem) (hm : m = lwInMem ∨ m = { lwInMem with aluResult := 256 }) :
    PipelineInvariant (invState m) := by
  rcases hm with rfl | rfl <;>
    exact ⟨by decide, by decide, by decide, ⟨fun _ => by decide, fun _ => ⟨.load, rfl⟩, fun _ => ⟨.opImm, rfl⟩⟩, by decide,
      by decide, by decide⟩

/-- `PipelineInvariantKept`, `PipelineRefinesSequential`: a step that completes and one that halts on a data error, from
states that meet the invariant. -/
theorem witness_PipelineRefinesSequential : HazardFree (invState lwInMem).cfg ∧ Completes (invState lwInMem) ∧
    HaltsWith (invState { lwInMem with aluResult := 256 }) .dataOutOfBounds :=
  ⟨by decide, ⟨_, rfl, rfl⟩, ⟨_, _, rfl, rfl, rfl⟩⟩

/-- The same for a misaligned fetch, behind a `jalr` (P13). -/
def p13Fault : State :=
  { stateE7 0 0 with pc := 2, ifid := ⟨true, true, 8, 0⟩, idex := (decJalr 0 1 0).latch 4 }

theorem witness_misalignedFetch : PipelineInvariant p13Fault ∧ HazardFree p13Fault.cfg ∧
    HaltsWith p13Fault .misalignedFetch :=
  ⟨⟨by decide, by decide, by decide, ⟨fun _ => by decide, fun h => absurd h (by decide), fun h => absurd h (by decide)⟩,
    by decide, by decide, by decide⟩, by decide, ⟨_, _, rfl, rfl, rfl⟩⟩

theorem witness_DrainedStateIsFinalSequentialState : drained p1End = true := by decide

/-- A program of one UNKNOWN word drains in five cycles; P14's `lw x1, 1(x0)` halts in the fourth (E8). -/
theorem witness_WholeRunsAgree :
    HazardFree (cfgOf [0] true true) ∧
    runOutcome (runToEnd (State.resetWith { cfgOf [0] true true with cycleLimit := 8 })) = .drained ∧
    runOutcome (runToEnd (State.resetWith { cfgOf [0x00102083] false false with cycleLimit := 8 })) =
      .halted ⟨.misalignedData, 4, 0, 1⟩ := by decide

/-- The clauses by opcode: each class opcode, 0x17 with and without `AUIPC_EN`, and one that names no class. -/
theorem witness_OpcodeClauses : (0x002101B3#32).extractLsb' 0 7 = 0x33#7 ∧ (0x00500093#32).extractLsb' 0 7 = 0x13#7 ∧
    (0x00802103#32).extractLsb' 0 7 = 0x03#7 ∧ (0x00102423#32).extractLsb' 0 7 = 0x23#7 ∧
    (0x00008863#32).extractLsb' 0 7 = 0x63#7 ∧ (0x008000EF#32).extractLsb' 0 7 = 0x6F#7 ∧
    (0x00808167#32).extractLsb' 0 7 = 0x67#7 ∧ (0x123452B7#32).extractLsb' 0 7 = 0x37#7 ∧
    (0x00001317#32).extractLsb' 0 7 = 0x17#7 ∧ (0x00000073#32).extractLsb' 0 7 = 0x73#7 := by decide

end Sys2Proof.Tests
end

section
/-! The register file of the next state, and register 0 (spec/10_state.md R14). -/

namespace Sys2Proof.Machine

/-- Whatever way a cycle ends, committed or halted, the next register file is the one Writeback leaves (R110, R115,
R147). -/
theorem cycleWith_x {s s' : State} {o : RegFile → DecodeOut} (h : cycleWith s o = .next s') :
    s'.x = writebackStage s.memwb s.x := by
  obtain ⟨-, ⟨_, -, rfl⟩ | ⟨_, _, -, ⟨-, rfl⟩ | ⟨_, _, -, rfl⟩⟩⟩ := cycleWith_cases h
  case inl => exact raiseFatal_x ..
  case inr.inl => exact raiseFatal_x ..
  case inr.inr => exact commitCycle_x ..

/-- Writeback is the only stage of a step that writes the register file. -/
theorem step_x {s s' : State} (h : step s = .next s') : s'.x = writebackStage s.memwb s.x :=
  cycleWith_x (step_eq_cycleWith s ▸ h)

/-- A commit to register 0 is dropped (R14). -/
theorem writebackStage_of_rd_zero {w : MemWb} (h : w.rd = 0#5) (x : RegFile) : writebackStage w x = x := by
  simp [writebackStage, h]

end Sys2Proof.Machine

namespace Sys2Proof.Claims

open Sys2Proof.Machine

/-- Settles O12: a step changes the register file by Writeback alone, which never touches entry 0 and drops a commit
to register 0. -/
theorem registerZeroIsHardwired : Obligations.RegisterZeroIsHardwired := by
  intro s s' hstep
  rw [step_x hstep]
  exact ⟨readReg_zero _, writebackStage_entry_zero _ _, fun hrd => writebackStage_of_rd_zero hrd _⟩

end Sys2Proof.Claims
end

section
/-! The forwarding selection, one lemma per case of its priority (spec/46_forwarding_unit.md R129, R130). -/

namespace Sys2Proof.Machine

/-- The condition of case (1), as R129 writes it. -/
theorem matchesExMem_iff (r : RegIdx) (m : ExMem) :
    matchesExMem r m = true ↔ r ≠ 0#5 ∧ m.live = true ∧ m.ctrl.writesRegister = true ∧ m.rd = r := by
  simp [matchesExMem, and_assoc]

/-- The condition of case (2), as R129 writes it. -/
theorem matchesMemWb_iff (r : RegIdx) (w : MemWb) :
    matchesMemWb r w = true ↔ r ≠ 0#5 ∧ w.live = true ∧ w.ctrl.writesRegister = true ∧ w.rd = r := by
  simp [matchesMemWb, and_assoc]

theorem operand_of_fwdEn {cfg : Cfg} (hfwd : cfg.fwdEn = true) (r : RegIdx) (m : ExMem) (w : MemWb) (x : RegFile) :
    operand cfg r m w x = fwdSelect r m w x := if_pos hfwd

theorem fwdSelect_of_matchesExMem {r : RegIdx} {m : ExMem} (hm : matchesExMem r m = true) (w : MemWb) (x : RegFile) :
    fwdSelect r m w x = m.aluResult := if_pos hm

theorem fwdSelect_of_matchesMemWb {r : RegIdx} {m : ExMem} {w : MemWb} (hm : ¬ matchesExMem r m = true)
    (hw : matchesMemWb r w = true) (x : RegFile) : fwdSelect r m w x = selectedResult w :=
  (if_neg hm).trans (if_pos hw)

theorem fwdSelect_of_no_match {r : RegIdx} {m : ExMem} {w : MemWb} (hm : ¬ matchesExMem r m = true)
    (hw : ¬ matchesMemWb r w = true) (x : RegFile) : fwdSelect r m w x = readReg x r :=
  (if_neg hm).trans (if_neg hw)

/-- No latch supplies register 0, so it is read from the register file, where it is 0 (R14). -/
@[simp] theorem fwdSelect_zero (m : ExMem) (w : MemWb) (x : RegFile) : fwdSelect 0#5 m w x = 0#32 := by
  have hm : ¬ matchesExMem 0#5 m = true := fun h => ((matchesExMem_iff _ _).mp h).1 rfl
  have hw : ¬ matchesMemWb 0#5 w = true := fun h => ((matchesMemWb_iff _ _).mp h).1 rfl
  rw [fwdSelect_of_no_match hm hw, readReg_zero]

end Sys2Proof.Machine

namespace Sys2Proof.Claims

open Sys2Proof.Machine

/-- Settles O22: with forwarding an operand is `fwdSelect`, and each clause is one case of its priority. -/
theorem forwardingPriority : Obligations.ForwardingPriority := by
  intro cfg r m w x hfwd
  rw [operand_of_fwdEn hfwd, ← matchesExMem_iff, ← matchesMemWb_iff]
  refine ⟨fun hm => fwdSelect_of_matchesExMem hm w x, fun hm hw => fwdSelect_of_matchesMemWb hm hw x,
    fun hm hw => fwdSelect_of_no_match hm hw x, ?_⟩
  rintro rfl
  exact fwdSelect_zero m w x

end Sys2Proof.Claims
end

section
/-! The encoder and the decoder are inverse to each other (spec/30_encoding.md R57 to R68): the fields of an encoded word
format by format, a word put together again from its fields, and the opcode a class stands for. -/

namespace Sys2Proof

/-! ### Fields of an encoded word, by format (R59) -/

theorem encodeR_fields (f7 : BitVec 7) (rs2 rs1 : RegIdx) (f3 : BitVec 3) (rd : RegIdx) (o : Opcode) :
    let w := encodeR f7 rs2 rs1 f3 rd o
    rdField w = rd ∧ funct3Field w = f3 ∧ rs1Field w = rs1 ∧ rs2Field w = rs2 ∧ funct7Field w = f7 := by
  refine ⟨?_, ?_, ?_, ?_, ?_⟩ <;>
  · apply BitVec.eq_of_getLsbD_eq
    intro k hk
    simp only [rdField, funct3Field, rs1Field, rs2Field, funct7Field, encodeR, BitVec.getLsbD_extractLsb',
      BitVec.getLsbD_append]
    grind

theorem encodeI_fields (imm : BitVec 12) (rs1 : RegIdx) (f3 : BitVec 3) (rd : RegIdx) (o : Opcode) :
    let w := encodeI imm rs1 f3 rd o
    rdField w = rd ∧ funct3Field w = f3 ∧ rs1Field w = rs1 ∧ immIBits w = imm := by
  refine ⟨?_, ?_, ?_, ?_⟩ <;>
  · apply BitVec.eq_of_getLsbD_eq
    intro k hk
    simp only [rdField, funct3Field, rs1Field, immIBits, encodeI, BitVec.getLsbD_extractLsb', BitVec.getLsbD_append]
    grind

theorem encodeS_fields (imm : BitVec 12) (rs2 rs1 : RegIdx) (f3 : BitVec 3) (o : Opcode) :
    let w := encodeS imm rs2 rs1 f3 o
    funct3Field w = f3 ∧ rs1Field w = rs1 ∧ rs2Field w = rs2 ∧ immSBits w = imm := by
  refine ⟨?_, ?_, ?_, ?_⟩ <;>
  · apply BitVec.eq_of_getLsbD_eq
    intro k hk
    simp only [funct3Field, rs1Field, rs2Field, immSBits, encodeS, BitVec.getLsbD_extractLsb', BitVec.getLsbD_append]
    grind

theorem encodeB_fields (off : BitVec 12) (rs2 rs1 : RegIdx) (f3 : BitVec 3) (o : Opcode) :
    let w := encodeB off rs2 rs1 f3 o
    funct3Field w = f3 ∧ rs1Field w = rs1 ∧ rs2Field w = rs2 ∧ immBBits w = off := by
  refine ⟨?_, ?_, ?_, ?_⟩ <;>
  · apply BitVec.eq_of_getLsbD_eq
    intro k hk
    simp only [funct3Field, rs1Field, rs2Field, immBBits, encodeB, BitVec.getLsbD_extractLsb', BitVec.getLsbD_append]
    grind

theorem encodeU_fields (imm20 : BitVec 20) (rd : RegIdx) (o : Opcode) :
    let w := encodeU imm20 rd o
    rdField w = rd ∧ immUBits w = imm20 := by
  refine ⟨?_, ?_⟩ <;>
  · apply BitVec.eq_of_getLsbD_eq
    intro k hk
    simp only [rdField, immUBits, encodeU, BitVec.getLsbD_extractLsb', BitVec.getLsbD_append]
    grind

theorem encodeJ_fields (off : BitVec 20) (rd : RegIdx) (o : Opcode) :
    let w := encodeJ off rd o
    rdField w = rd ∧ immJBits w = off := by
  refine ⟨?_, ?_⟩ <;>
  · apply BitVec.eq_of_getLsbD_eq
    intro k hk
    simp only [rdField, immJBits, encodeJ, BitVec.getLsbD_extractLsb', BitVec.getLsbD_append]
    grind

/-! ### A word put together again from its fields -/

section
variable (w : Word)

theorem encodeR_of_fields :
    encodeR (funct7Field w) (rs2Field w) (rs1Field w) (funct3Field w) (rdField w) (opcodeField w) = w := by
  apply BitVec.eq_of_getLsbD_eq
  intro k hk
  simp only [encodeR, funct7Field, rs2Field, rs1Field, funct3Field, rdField, opcodeField, BitVec.getLsbD_extractLsb',
    BitVec.getLsbD_append]
  grind

theorem encodeI_of_fields : encodeI (immIBits w) (rs1Field w) (funct3Field w) (rdField w) (opcodeField w) = w := by
  apply BitVec.eq_of_getLsbD_eq
  intro k hk
  simp only [encodeI, immIBits, rs1Field, funct3Field, rdField, opcodeField, BitVec.getLsbD_extractLsb',
    BitVec.getLsbD_append]
  grind

theorem encodeS_of_fields : encodeS (immSBits w) (rs2Field w) (rs1Field w) (funct3Field w) (opcodeField w) = w := by
  apply BitVec.eq_of_getLsbD_eq
  intro k hk
  simp only [encodeS, immSBits, rs2Field, rs1Field, funct3Field, opcodeField, BitVec.getLsbD_extractLsb',
    BitVec.getLsbD_append]
  grind

theorem encodeB_of_fields : encodeB (immBBits w) (rs2Field w) (rs1Field w) (funct3Field w) (opcodeField w) = w := by
  apply BitVec.eq_of_getLsbD_eq
  intro k hk
  simp only [encodeB, immBBits, rs2Field, rs1Field, funct3Field, opcodeField, BitVec.getLsbD_extractLsb',
    BitVec.getLsbD_append]
  grind

theorem encodeU_of_fields : encodeU (immUBits w) (rdField w) (opcodeField w) = w := by
  apply BitVec.eq_of_getLsbD_eq
  intro k hk
  simp only [encodeU, immUBits, rdField, opcodeField, BitVec.getLsbD_extractLsb', BitVec.getLsbD_append]
  grind

theorem encodeJ_of_fields : encodeJ (immJBits w) (rdField w) (opcodeField w) = w := by
  apply BitVec.eq_of_getLsbD_eq
  intro k hk
  simp only [encodeJ, immJBits, rdField, opcodeField, BitVec.getLsbD_extractLsb', BitVec.getLsbD_append]
  grind

end

/-! ### The opcode a class stands for (R66) -/

/-- The opcode of a class; UNKNOWN has none of its own. -/
def opcodeOfClass : OpClass → Opcode
  | .load => 0x03#7
  | .opImm => 0x13#7
  | .auipc => 0x17#7
  | .store => 0x23#7
  | .op => 0x33#7
  | .lui => 0x37#7
  | .branch => 0x63#7
  | .jalr => 0x67#7
  | .jal => 0x6F#7
  | .unknown => 0#7

/-- A word of a class other than UNKNOWN carries the opcode of its class, and one of class AUIPC shows that `AUIPC_EN` is
on (R68). -/
theorem opcode_of_classOf {en : Bool} {o : Opcode} {c : OpClass} (h : classOf en o = c) (hc : c ≠ .unknown) :
    o = opcodeOfClass c ∧ (c = .auipc → en = true) := by
  subst h
  unfold classOf at hc ⊢
  split_ifs <;> simp_all [opcodeOfClass]

/-! ### What a word decodes to, class by class (R67, R104) -/

section
variable {en : Bool} {w : Word}

theorem decode_op (h : classOf en (opcodeField w) = .op) : decode en w =
    if funct3Field w = 0#3 ∧ funct7Field w = 0#7 then .add (rdField w) (rs1Field w) (rs2Field w)
    else .opOther (funct3Field w) (funct7Field w) (rdField w) (rs1Field w) (rs2Field w) := by
  simp [decode, h]

theorem decode_opImm (h : classOf en (opcodeField w) = .opImm) : decode en w =
    if funct3Field w = 0#3 then .addi (rdField w) (rs1Field w) (immIBits w)
    else .opimmOther (funct3Field w) (rdField w) (rs1Field w) (immIBits w) := by
  simp [decode, h]

theorem decode_load (h : classOf en (opcodeField w) = .load) : decode en w =
    if funct3Field w = 2#3 then .lw (rdField w) (rs1Field w) (immIBits w)
    else .loadOther (funct3Field w) (rdField w) (rs1Field w) (immIBits w) := by
  simp [decode, h]

theorem decode_store (h : classOf en (opcodeField w) = .store) : decode en w =
    if funct3Field w = 2#3 then .sw (rs1Field w) (rs2Field w) (immSBits w)
    else .storeOther (funct3Field w) (rs1Field w) (rs2Field w) (immSBits w) := by
  simp [decode, h]

theorem decode_branch (h : classOf en (opcodeField w) = .branch) : decode en w =
    if funct3Field w = 0#3 then .beq (rs1Field w) (rs2Field w) (immBBits w)
    else .branchOther (funct3Field w) (rs1Field w) (rs2Field w) (immBBits w) := by
  simp [decode, h]

theorem decode_jalr (h : classOf en (opcodeField w) = .jalr) : decode en w =
    if funct3Field w = 0#3 then .jalr (rdField w) (rs1Field w) (immIBits w)
    else .jalrOther (funct3Field w) (rdField w) (rs1Field w) (immIBits w) := by
  simp [decode, h]

theorem decode_jal (h : classOf en (opcodeField w) = .jal) : decode en w = .jal (rdField w) (immJBits w) := by
  simp [decode, h]

theorem decode_lui (h : classOf en (opcodeField w) = .lui) : decode en w = .lui (rdField w) (immUBits w) := by
  simp [decode, h]

theorem decode_auipc (h : classOf en (opcodeField w) = .auipc) : decode en w = .auipc (rdField w) (immUBits w) := by
  simp [decode, h]

theorem decode_unknown (h : classOf en (opcodeField w) = .unknown) : decode en w = .unknown w := by
  simp [decode, h]

end

open Laws.OpcodeOfClass in
/-- Decoding inverts encoding: the class of the encoded word is the instruction's own, its fields are the operands, and
the function codes of a well-formed row select that row. -/
theorem decode_encode (en : Bool) (i : Instr) (hwf : wellFormed en i = true) : decode en (encode i) = i := by
  cases i with
  | add rd rs1 rs2 =>
    obtain ⟨hrd, hf3, hrs1, hrs2, hf7⟩ := encodeR_fields 0#7 rs2 rs1 0#3 rd 0x33#7
    rw [decode_op (add rd rs1 rs2 en hwf), encode, hrd, hf3, hrs1, hrs2, hf7, if_pos ⟨rfl, rfl⟩]
  | opOther f3 f7 rd rs1 rs2 =>
    obtain ⟨hrd, hf3, hrs1, hrs2, hf7⟩ := encodeR_fields f7 rs2 rs1 f3 rd 0x33#7
    have hrow : ¬ (f3 = 0#3 ∧ f7 = 0#7) := by simpa [wellFormed, ← not_and_or] using hwf
    rw [decode_op (opOther f3 f7 rd rs1 rs2 en hwf), encode, hrd, hf3, hrs1, hrs2, hf7, if_neg hrow]
  | addi rd rs1 imm =>
    obtain ⟨hrd, hf3, hrs1, himm⟩ := encodeI_fields imm rs1 0#3 rd 0x13#7
    rw [decode_opImm (addi rd rs1 imm en hwf), encode, hrd, hf3, hrs1, himm, if_pos rfl]
  | opimmOther f3 rd rs1 imm =>
    obtain ⟨hrd, hf3, hrs1, himm⟩ := encodeI_fields imm rs1 f3 rd 0x13#7
    have hrow : f3 ≠ 0#3 := by simpa [wellFormed] using hwf
    rw [decode_opImm (opimmOther f3 rd rs1 imm en hwf), encode, hrd, hf3, hrs1, himm, if_neg hrow]
  | lw rd rs1 imm =>
    obtain ⟨hrd, hf3, hrs1, himm⟩ := encodeI_fields imm rs1 2#3 rd 0x03#7
    rw [decode_load (lw rd rs1 imm en hwf), encode, hrd, hf3, hrs1, himm, if_pos rfl]
  | loadOther f3 rd rs1 imm =>
    obtain ⟨hrd, hf3, hrs1, himm⟩ := encodeI_fields imm rs1 f3 rd 0x03#7
    have hrow : f3 ≠ 2#3 := by simpa [wellFormed] using hwf
    rw [decode_load (loadOther f3 rd rs1 imm en hwf), encode, hrd, hf3, hrs1, himm, if_neg hrow]
  | sw rs1 rs2 imm =>
    obtain ⟨hf3, hrs1, hrs2, himm⟩ := encodeS_fields imm rs2 rs1 2#3 0x23#7
    rw [decode_store (sw rs1 rs2 imm en hwf), encode, hf3, hrs1, hrs2, himm, if_pos rfl]
  | storeOther f3 rs1 rs2 imm =>
    obtain ⟨hf3, hrs1, hrs2, himm⟩ := encodeS_fields imm rs2 rs1 f3 0x23#7
    have hrow : f3 ≠ 2#3 := by simpa [wellFormed] using hwf
    rw [decode_store (storeOther f3 rs1 rs2 imm en hwf), encode, hf3, hrs1, hrs2, himm, if_neg hrow]
  | beq rs1 rs2 off =>
    obtain ⟨hf3, hrs1, hrs2, hoff⟩ := encodeB_fields off rs2 rs1 0#3 0x63#7
    rw [decode_branch (beq rs1 rs2 off en hwf), encode, hf3, hrs1, hrs2, hoff, if_pos rfl]
  | branchOther f3 rs1 rs2 off =>
    obtain ⟨hf3, hrs1, hrs2, hoff⟩ := encodeB_fields off rs2 rs1 f3 0x63#7
    have hrow : f3 ≠ 0#3 := by simpa [wellFormed] using hwf
    rw [decode_branch (branchOther f3 rs1 rs2 off en hwf), encode, hf3, hrs1, hrs2, hoff, if_neg hrow]
  | jalr rd rs1 imm =>
    obtain ⟨hrd, hf3, hrs1, himm⟩ := encodeI_fields imm rs1 0#3 rd 0x67#7
    rw [decode_jalr (jalr rd rs1 imm en hwf), encode, hrd, hf3, hrs1, himm, if_pos rfl]
  | jalrOther f3 rd rs1 imm =>
    obtain ⟨hrd, hf3, hrs1, himm⟩ := encodeI_fields imm rs1 f3 rd 0x67#7
    have hrow : f3 ≠ 0#3 := by simpa [wellFormed] using hwf
    rw [decode_jalr (jalrOther f3 rd rs1 imm en hwf), encode, hrd, hf3, hrs1, himm, if_neg hrow]
  | jal rd off =>
    obtain ⟨hrd, hoff⟩ := encodeJ_fields off rd 0x6F#7
    rw [decode_jal (jal rd off en hwf), encode, hrd, hoff]
  | lui rd imm20 =>
    obtain ⟨hrd, himm⟩ := encodeU_fields imm20 rd 0x37#7
    rw [decode_lui (lui rd imm20 en hwf), encode, hrd, himm]
  | auipc rd imm20 =>
    obtain ⟨hrd, himm⟩ := encodeU_fields imm20 rd 0x17#7
    rw [decode_auipc (auipc rd imm20 en hwf), encode, hrd, himm]
  | unknown w => exact decode_unknown (unknown w en hwf)

/-- Encoding inverts decoding, and what a word decodes to is well formed: every class keeps all the fields of its
format, and its opcode is the word's own. -/
theorem encode_decode (en : Bool) (w : Word) :
    wellFormed en (decode en w) = true ∧ encode (decode en w) = w := by
  have hop (hc : classOf en (opcodeField w) ≠ .unknown) := (opcode_of_classOf rfl hc).1
  cases hc : classOf en (opcodeField w) <;> simp only [hc, opcodeOfClass, ne_eq, reduceCtorEq, not_false_eq_true,
    not_true_eq_false, forall_const, false_imp_iff] at hop
  case op =>
    have hw := encodeR_of_fields w
    rw [decode_op hc]
    split <;> simp_all [wellFormed, encode, ← not_and_or]
  case opImm =>
    have hw := encodeI_of_fields w
    rw [decode_opImm hc]
    split <;> simp_all [wellFormed, encode]
  case load =>
    have hw := encodeI_of_fields w
    rw [decode_load hc]
    split <;> simp_all [wellFormed, encode]
  case jalr =>
    have hw := encodeI_of_fields w
    rw [decode_jalr hc]
    split <;> simp_all [wellFormed, encode]
  case store =>
    have hw := encodeS_of_fields w
    rw [decode_store hc]
    split <;> simp_all [wellFormed, encode]
  case branch =>
    have hw := encodeB_of_fields w
    rw [decode_branch hc]
    split <;> simp_all [wellFormed, encode]
  case jal =>
    have hw := encodeJ_of_fields w
    rw [hop] at hw
    rw [decode_jal hc]
    exact ⟨rfl, hw⟩
  case lui =>
    have hw := encodeU_of_fields w
    rw [hop] at hw
    rw [decode_lui hc]
    exact ⟨rfl, hw⟩
  case auipc =>
    have hw := encodeU_of_fields w
    rw [hop] at hw
    rw [decode_auipc hc]
    exact ⟨(opcode_of_classOf hc (by decide)).2 rfl, hw⟩
  case unknown =>
    rw [decode_unknown hc]
    exact ⟨by simp [wellFormed, hc], rfl⟩

end Sys2Proof

namespace Sys2Proof.Claims

/-- Settles O1: the fields of the encoded word are the operands of the instruction, format by format. -/
theorem decodeInvertsEncode : Obligations.DecodeInvertsEncode := decode_encode

/-- Settles O2: the encoder puts back together the fields the decoder took out, format by format. -/
theorem encodeInvertsDecode : Obligations.EncodeInvertsDecode := encode_decode

end Sys2Proof.Claims
end

section
/-! What Decode hands over for a word: the raw fields, the immediate and the control tuple of its class
(spec/30_encoding.md R57 to R70). -/

namespace Sys2Proof

/-! ### The bits an immediate shares with the raw fields (R60 to R64) -/

section
variable (w : Word)

theorem immIBits_extract :
    (immIBits w).extractLsb' 0 5 = rs2Field w ∧ (immIBits w).extractLsb' 5 7 = funct7Field w := by
  refine ⟨?_, ?_⟩ <;>
  · apply BitVec.eq_of_getLsbD_eq
    intro k hk
    simp only [immIBits, rs2Field, funct7Field, BitVec.getLsbD_extractLsb']
    grind

theorem immSBits_extract :
    (immSBits w).extractLsb' 0 5 = rdField w ∧ (immSBits w).extractLsb' 5 7 = funct7Field w := by
  refine ⟨?_, ?_⟩ <;>
  · apply BitVec.eq_of_getLsbD_eq
    intro k hk
    simp only [immSBits, rdField, funct7Field, BitVec.getLsbD_extractLsb', BitVec.getLsbD_append]
    grind

theorem immBBits_extract :
    (immBBits w).extractLsb' 0 4 ++ (immBBits w).extractLsb' 10 1 = rdField w ∧
      (immBBits w).extractLsb' 11 1 ++ (immBBits w).extractLsb' 4 6 = funct7Field w := by
  refine ⟨?_, ?_⟩ <;>
  · apply BitVec.eq_of_getLsbD_eq
    intro k hk
    simp only [immBBits, rdField, funct7Field, BitVec.getLsbD_extractLsb', BitVec.getLsbD_append]
    grind

theorem immUBits_extract :
    (immUBits w).extractLsb' 0 3 = funct3Field w ∧ (immUBits w).extractLsb' 3 5 = rs1Field w ∧
      (immUBits w).extractLsb' 8 5 = rs2Field w ∧ (immUBits w).extractLsb' 13 7 = funct7Field w := by
  refine ⟨?_, ?_, ?_, ?_⟩ <;>
  · apply BitVec.eq_of_getLsbD_eq
    intro k hk
    simp only [immUBits, funct3Field, rs1Field, rs2Field, funct7Field, BitVec.getLsbD_extractLsb']
    grind

theorem immJBits_extract :
    (immJBits w).extractLsb' 11 3 = funct3Field w ∧ (immJBits w).extractLsb' 14 5 = rs1Field w ∧
      (immJBits w).extractLsb' 0 4 ++ (immJBits w).extractLsb' 10 1 = rs2Field w ∧
      (immJBits w).extractLsb' 19 1 ++ (immJBits w).extractLsb' 4 6 = funct7Field w := by
  refine ⟨?_, ?_, ?_, ?_⟩ <;>
  · apply BitVec.eq_of_getLsbD_eq
    intro k hk
    simp only [immJBits, funct3Field, rs1Field, rs2Field, funct7Field, BitVec.getLsbD_extractLsb',
      BitVec.getLsbD_append]
    grind

end

end Sys2Proof

namespace Sys2Proof.Machine

/-- The decode record of the instruction a word decodes to is the one read straight from the word (R58): each format
puts the immediate bits back where the raw fields lie. -/
theorem decOf_decode (en : Bool) (w : Word) : decOf en (decode en w) = decOfWord en w := by
  have hop (hc : classOf en (opcodeField w) ≠ .unknown) := (opcode_of_classOf rfl hc).1
  cases hc : classOf en (opcodeField w) <;> simp only [hc, opcodeOfClass, ne_eq, reduceCtorEq, not_false_eq_true,
    not_true_eq_false, forall_const, false_imp_iff] at hop
  case op =>
    rw [decode_op hc, decOfWord, hc, hop]
    split <;> simp_all [decOf, decAdd, decOpOther, decR, immOf]
  case opImm =>
    rw [decode_opImm hc, decOfWord, hc, hop]
    split <;> simp_all [decOf, decAddi, decOpimmOther, decI, immOf, immIBits_extract]
  case load =>
    rw [decode_load hc, decOfWord, hc, hop]
    split <;> simp_all [decOf, decLw, decLoadOther, decI, immOf, immIBits_extract]
  case jalr =>
    rw [decode_jalr hc, decOfWord, hc, hop]
    split <;> simp_all [decOf, decJalr, decJalrOther, decI, immOf, immIBits_extract]
  case store =>
    rw [decode_store hc, decOfWord, hc, hop]
    split <;> simp_all [decOf, decSw, decStoreOther, decS, immOf, immSBits_extract]
  case branch =>
    rw [decode_branch hc, decOfWord, hc, hop]
    split <;> simp_all [decOf, decBeq, decBranchOther, decB, immOf, immBBits_extract]
  case jal =>
    rw [decode_jal hc, decOfWord, hc, hop]
    simp [decOf, decJal, decJ, immOf, immJBits_extract]
  case lui =>
    rw [decode_lui hc, decOfWord, hc, hop]
    simp [decOf, decLui, decU, immOf, immUBits_extract]
  case auipc =>
    rw [decode_auipc hc, decOfWord, hc, hop, (opcode_of_classOf hc (by decide)).2 rfl]
    simp [decOf, decAuipc, decU, immOf, immUBits_extract]
  case unknown =>
    rw [decode_unknown hc, decOfWord, hc]
    rfl

end Sys2Proof.Machine

namespace Sys2Proof

/-! ### The range of an immediate -/

theorem sext12_range (v : BitVec 12) : -2048 ≤ (sext12 v).toInt ∧ (sext12 v).toInt ≤ 2047 := by
  rw [sext12, BitVec.toInt_signExtend_of_le (by decide)]
  have hlo := BitVec.le_toInt v
  have hhi := BitVec.toInt_lt (x := v)
  simp only [Nat.add_one_sub_one] at hlo hhi
  omega

/-- Appending a zero bit doubles the value. -/
theorem toInt_append_zero {n : Nat} (v : BitVec n) : (v ++ 0#1 : BitVec (n + 1)).toInt = 2 * v.toInt := by
  have h : (v ++ 0#1).toNat = 2 * v.toNat := by simp [BitVec.toNat_append, Nat.shiftLeft_eq, Nat.mul_comm]
  rw [BitVec.toInt_eq_toNat_cond, BitVec.toInt_eq_toNat_cond, h]
  split <;> split <;> push_cast [Nat.pow_succ] <;> omega

theorem sextB_range (off : BitVec 12) : -4096 ≤ (sextB off).toInt ∧ (sextB off).toInt ≤ 4094 := by
  rw [sextB, BitVec.toInt_signExtend_of_le (by decide), toInt_append_zero]
  have hlo := BitVec.le_toInt off
  have hhi := BitVec.toInt_lt (x := off)
  simp only [Nat.add_one_sub_one] at hlo hhi
  omega

theorem sextJ_range (off : BitVec 20) : -1048576 ≤ (sextJ off).toInt ∧ (sextJ off).toInt ≤ 1048574 := by
  rw [sextJ, BitVec.toInt_signExtend_of_le (by decide), toInt_append_zero]
  have hlo := BitVec.le_toInt off
  have hhi := BitVec.toInt_lt (x := off)
  simp only [Nat.add_one_sub_one] at hlo hhi
  omega

/-! ### The bits of an immediate (R60 to R64) -/

section
variable (w : Word) {k : Nat} (hk : k < 32)
include hk

theorem getLsbD_sext12_immI : (sext12 (immIBits w)).getLsbD k = w.getLsbD (if k < 11 then k + 20 else 31) := by
  simp only [sext12, immIBits, BitVec.getLsbD_signExtend, BitVec.getLsbD_extractLsb', BitVec.msb_eq_getLsbD_last]
  grind

theorem getLsbD_sext12_immS : (sext12 (immSBits w)).getLsbD k =
    w.getLsbD (if k < 5 then k + 7 else if k < 11 then k + 20 else 31) := by
  simp only [sext12, immSBits, BitVec.getLsbD_signExtend, BitVec.getLsbD_extractLsb', BitVec.getLsbD_append,
    BitVec.msb_eq_getLsbD_last]
  grind

theorem getLsbD_sextB_immB : (sextB (immBBits w)).getLsbD k = (decide (1 ≤ k) &&
    w.getLsbD (if k < 5 then k + 7 else if k < 11 then k + 20 else if k = 11 then 7 else 31)) := by
  simp only [sextB, immBBits, BitVec.getLsbD_signExtend, BitVec.getLsbD_extractLsb', BitVec.getLsbD_append,
    BitVec.msb_eq_getLsbD_last, BitVec.getLsbD_zero]
  grind

theorem getLsbD_sextJ_immJ : (sextJ (immJBits w)).getLsbD k = (decide (1 ≤ k) &&
    w.getLsbD (if k < 11 then k + 20 else if k = 11 then 20 else if k < 20 then k else 31)) := by
  simp only [sextJ, immJBits, BitVec.getLsbD_signExtend, BitVec.getLsbD_extractLsb', BitVec.getLsbD_append,
    BitVec.msb_eq_getLsbD_last, BitVec.getLsbD_zero]
  grind

theorem getLsbD_immUpper_immU : (immUpper (immUBits w)).getLsbD k = (decide (12 ≤ k) && w.getLsbD k) := by
  simp only [immUpper, immUBits, BitVec.getLsbD_extractLsb', BitVec.getLsbD_append, BitVec.getLsbD_zero]
  grind

end

end Sys2Proof

namespace Sys2Proof.Claims

open Sys2Proof.Machine

/-- Settles O3: the record of the decoded instruction is the record of the word. -/
theorem decodeRecordHoldsRawFields : Obligations.DecodeRecordHoldsRawFields := decOf_decode

/-- Settles O4: each format's bits and range, from the lemma of its format. -/
theorem immediateLayouts : Obligations.ImmediateLayouts := by
  intro w
  refine ⟨?_, ⟨?_, sext12_range _⟩, ⟨?_, ?_, sextB_range _⟩, ⟨?_, ?_, sextJ_range _⟩, ?_⟩
  · rintro c (rfl | rfl | rfl) <;> exact ⟨fun k hk => getLsbD_sext12_immI w hk, sext12_range _⟩
  · exact fun k hk => getLsbD_sext12_immS w hk
  · exact getLsbD_sextB_immB w (by decide)
  · intro k h1 hk
    rw [immOf, getLsbD_sextB_immB w hk, decide_eq_true h1, Bool.true_and]
  · exact getLsbD_sextJ_immJ w (by decide)
  · intro k h1 hk
    rw [immOf, getLsbD_sextJ_immJ w hk, decide_eq_true h1, Bool.true_and]
  · rintro c (rfl | rfl) <;> exact fun k hk => getLsbD_immUpper_immU w hk

/-- Settles O5: the tuple handed over is that of the class of the opcode, and each opcode has its row in the class
map. -/
theorem controlTupleOfEachOpcode : Obligations.ControlTupleOfEachOpcode := by
  intro en w o t
  have ht : t = ctrlOf (classOf en o) := congrArg Dec.ctrl (decOf_decode en w)
  have row {o' : Opcode} (c : OpClass) (hc : classOf en o' = c) (ho : o = o') : t = ctrlOf c := by rw [ht, ho, hc]
  refine ⟨row .op rfl, row .opImm rfl, row .load rfl, row .store rfl, row .branch rfl, row .jal rfl, row .jalr rfl,
    row .lui rfl, fun ho hen => row .auipc (by rw [hen]; rfl) ho, ?_⟩
  rintro ⟨h33, h13, h03, h23, h63, h6F, h67, h37, h17⟩
  have hunknown : classOf en o = .unknown := by simp_all [classOf]
  exact row .unknown hunknown rfl

/-- Settles O6: each word is decoded by evaluation. -/
theorem specifiedWordsDecode : Obligations.SpecifiedWordsDecode := by
  unfold Obligations.SpecifiedWordsDecode
  decide

end Sys2Proof.Claims
end

section
/-! What a clock cycle leaves, said once for the obligations about it: the wires of Decode, everything Fetch can give, and
the next state field by field, in a cycle that commits and in one that halts (spec/44_pipeline_latch_controller.md R108
to R116, spec/60_exceptions.md R147). -/

namespace Sys2Proof.Machine

open Sys2Proof.Claims

/-! ### The wires of Decode (R113) -/

theorem decodeOut_of_live {s : State} (h : s.ifid.live = true) (x : RegFile) :
    decodeOut s x = decodeLive s (decodedIn s) x := by
  rw [decodeOut, if_pos h, decOf_decode]

theorem decodeOut_of_not_live {s : State} (h : s.ifid.live = false) (x : RegFile) :
    decodeOut s x = decodeIdle s.ifid := by
  rw [decodeOut, h, if_neg Bool.false_ne_true]

theorem decodeIdle_eq (l : IfId) :
    decodeIdle l = ⟨if l.valid then IdEx.bubbleAt l.pc else IdEx.invalid, false, false, 0#32⟩ := by
  unfold decodeIdle
  cases l.valid <;> rfl

theorem decodeLive_of_hazard {s : State} {d : Dec} (h : hazard s.cfg d s.idex s.exmem = true) (x : RegFile) :
    decodeLive s d x = ⟨IdEx.bubbleAt s.ifid.pc, true, false, 0#32⟩ := if_pos h

theorem decodeLive_of_no_hazard {s : State} {d : Dec} (h : hazard s.cfg d s.idex s.exmem = false) (x : RegFile) :
    decodeLive s d x = ⟨d.latch s.ifid.pc, false, d.ctrl.isControlFlow,
      if d.ctrl.isControlFlow then redirectOf (resolve s.cfg d s.ifid.pc s.exmem s.memwb x) s.ifid.pc else 0#32⟩ := by
  unfold decodeLive
  cases hcf : d.ctrl.isControlFlow <;> simp [h]

theorem stallWire_of_live {s : State} (h : s.ifid.live = true) :
    stallWire s = hazard s.cfg (decodedIn s) s.idex s.exmem := by simp [stallWire, h]

theorem live_of_stallWire {s : State} (h : stallWire s = true) : s.ifid.live = true := by
  simp only [stallWire, Bool.and_eq_true] at h
  exact h.1

theorem flushWire_iff (s : State) : flushWire s = true ↔
    s.ifid.live = true ∧ stallWire s = false ∧ (decodedIn s).ctrl.isControlFlow = true := by
  simp [flushWire, and_assoc]

/-- A live word in Decode stalls: the bubble at its address (R113). -/
theorem decodeOut_of_stall {s : State} (h : stallWire s = true) (x : RegFile) :
    decodeOut s x = ⟨IdEx.bubbleAt s.ifid.pc, true, false, 0#32⟩ := by
  have hlive := live_of_stallWire h
  rw [decodeOut_of_live hlive, decodeLive_of_hazard (stallWire_of_live hlive ▸ h)]

/-- A live word in Decode issues: its latch, and the redirect if it is a control-flow word (R113). -/
theorem decodeOut_of_issue {s : State} (hlive : s.ifid.live = true) (h : stallWire s = false) (x : RegFile) :
    decodeOut s x = ⟨(decodedIn s).latch s.ifid.pc, false, (decodedIn s).ctrl.isControlFlow,
      if (decodedIn s).ctrl.isControlFlow then
        redirectOf (resolve s.cfg (decodedIn s) s.ifid.pc s.exmem s.memwb x) s.ifid.pc else 0#32⟩ := by
  rw [decodeOut_of_live hlive, decodeLive_of_no_hazard (stallWire_of_live hlive ▸ h)]

/-- Everything Decode puts out: nothing live, a stall, or an issue. -/
theorem decode_cases (s : State) :
    (s.ifid.live = false ∧ stallWire s = false) ∨ (s.ifid.live = true ∧ stallWire s = true) ∨
      (s.ifid.live = true ∧ stallWire s = false) := by
  unfold stallWire
  cases s.ifid.live <;> simp

@[simp] theorem decodeOut_stall (s : State) (x : RegFile) : (decodeOut s x).stall = stallWire s := by
  rcases decode_cases s with ⟨hl, hs⟩ | ⟨hl, hs⟩ | ⟨hl, hs⟩
  · rw [decodeOut_of_not_live hl, decodeIdle_eq, hs]
  · rw [decodeOut_of_stall hs, hs]
  · rw [decodeOut_of_issue hl hs, hs]

@[simp] theorem decodeOut_flush (s : State) (x : RegFile) : (decodeOut s x).flush = flushWire s := by
  rcases decode_cases s with ⟨hl, hs⟩ | ⟨hl, hs⟩ | ⟨hl, hs⟩
  · rw [decodeOut_of_not_live hl, decodeIdle_eq]; simp [hl]
  · rw [decodeOut_of_stall hs]; simp [hs]
  · rw [decodeOut_of_issue hl hs]; simp [hl, hs]

theorem decodeOut_redirect {s : State} (h : flushWire s = true) :
    (decodeOut s (xAfterWb s)).redirect = redirectWire s := by
  obtain ⟨hl, hs, hcf⟩ := (flushWire_iff s).mp h
  rw [decodeOut_of_issue hl hs, hcf, if_pos rfl]

/-- Decode never stalls and flushes in one cycle (R117 item 1). -/
theorem stall_or_flush_off (s : State) : stallWire s = false ∨ flushWire s = false := by
  cases h : stallWire s <;> simp [h]

/-! ### Everything Fetch can give (R114, R138, R140) -/

theorem fetchStage_eq_none_iff (s : State) (o : DecodeOut) : fetchStage s o = none ↔
    (o.stall && !o.flush) = false ∧ ifetch s.cfg s.pc = .misaligned := by
  unfold fetchStage
  cases hrun : (o.stall && !o.flush)
  · cases ifetch s.cfg s.pc <;> simp
  · simp

/-- The next `IFID` and `pc`, in terms of the wires; a fetch made in bounds was aligned. -/
theorem fetchStage_eq_some {s : State} {o : DecodeOut} {f : IfId} {p : Word}
    (hoff : o.stall = false ∨ o.flush = false) (h : fetchStage s o = some (f, p)) :
    f = (if o.stall then s.ifid
      else if Fetchable s.cfg s.pc then ⟨true, o.flush, s.pc, imemWord s.cfg s.pc⟩ else IfId.invalid) ∧
    p = (if o.flush then o.redirect else if o.stall then s.pc
      else if Fetchable s.cfg s.pc then s.pc + 4#32 else s.pc) ∧
    (o.stall = false → Fetchable s.cfg s.pc → s.pc.toNat % 4 = 0) := by
  cases hs : o.stall
  case true =>
    have hf : o.flush = false := by simpa [hs] using hoff
    rw [fetchStage_of_stall s hs hf] at h
    cases h
    simp [hf]
  case false =>
    have hin := inBounds_iff s.cfg s.pc
    rcases fetchStage_of_run s hs with ⟨-, hr⟩ | ⟨hb, ha, hr⟩ | ⟨hb, hr⟩
    · rw [hr] at h; cases h
    · rw [hr] at h; cases h
      have hfe : Fetchable s.cfg s.pc := hin.mp hb
      simp [hfe, ha]
    · rw [hr] at h; cases h
      have hfe : ¬ Fetchable s.cfg s.pc := fun hlt => by simp [hin.mpr hlt] at hb
      simp [hfe]

/-! ### The Memory stage (R111) -/

/-- Everything a Memory stage that raises nothing can have done. -/
theorem memoryStage_ok_cases {cfg : Cfg} {m : ExMem} {dmem dmem' : Memory} {w : MemWb}
    (h : memoryStage cfg m dmem = .ok (w, dmem')) :
    (m.live = false ∧ w = (if m.valid then MemWb.bubbleAt m.pc else MemWb.invalid) ∧ dmem' = dmem) ∨
    (m.live = true ∧
      (m.ctrl.readsMemory = true ∨ m.ctrl.writesMemory = true → accessError cfg m.aluResult = none) ∧
      w = ⟨true, false, m.pc, m.rd, m.ctrl, m.aluResult,
          if m.ctrl.readsMemory then readWord dmem (wordIndex cfg m.aluResult) else 0#32⟩ ∧
      dmem' = if m.ctrl.writesMemory then writeWord dmem (wordIndex cfg m.aluResult) m.storeData else dmem) := by
  cases hl : m.live
  case false =>
    rw [memoryStage_of_not_live hl] at h
    cases h
    exact .inl ⟨rfl, rfl, rfl⟩
  case true =>
    have hacc : m.ctrl.readsMemory = true ∨ m.ctrl.writesMemory = true → accessError cfg m.aluResult = none := by
      intro ha
      cases he : accessError cfg m.aluResult with
      | none => rfl
      | some code => rw [memoryStage_of_error hl ha he] at h; cases h
    rw [memoryStage_of_live hl hacc] at h
    cases h
    exact .inr ⟨rfl, hacc, rfl, rfl⟩

/-- The Memory stage passes on whether its latch is live, and its address. -/
theorem memoryStage_ok_live {cfg : Cfg} {m : ExMem} {dmem dmem' : Memory} {w : MemWb}
    (h : memoryStage cfg m dmem = .ok (w, dmem')) : w.live = m.live ∧ (m.live = true → w.pc = m.pc) := by
  obtain ⟨hl, rfl, -⟩ | ⟨hl, -, rfl, -⟩ := memoryStage_ok_cases h
  · rw [hl]
    split <;> simp
  · rw [hl]
    exact ⟨rfl, fun _ => rfl⟩

theorem noDataError_iff (s : State) :
    NoDataError s ↔ ∃ w dmem, memoryStage s.cfg s.exmem s.dmem = .ok (w, dmem) := by
  constructor
  · intro h
    cases hl : s.exmem.live
    · exact ⟨_, _, memoryStage_of_not_live hl _⟩
    · exact ⟨_, _, memoryStage_of_live hl (h hl) _⟩
  · rintro ⟨w, dmem, h⟩ hl
    obtain ⟨hn, -, -⟩ | ⟨-, hacc, -, -⟩ := memoryStage_ok_cases h
    · rw [hl] at hn; cases hn
    · exact hacc

theorem memoryRaises_eq_false_iff (s : State) : memoryRaises s = false ↔ NoDataError s := by
  rw [← Bool.not_eq_true, memoryRaises_iff]
  simp [NoDataError]

/-! ### The Execute stage (R112) -/

theorem executeStage_live (cfg : Cfg) (e : IdEx) (m : ExMem) (w : MemWb) (x : RegFile) :
    (executeStage cfg e m w x).live = e.live := by
  cases hl : e.live
  · exact executeStage_not_live hl m w x
  · rw [executeStage_of_live hl]; rfl

/-! ### A cycle that commits -/

/-- What a cycle that raises no fatal error leaves, field by field, when Decode puts out `o` (R115). -/
structure Commits (s : State) (o : DecodeOut) (t : State) : Prop where
  running : s.halted = none
  memory : memoryStage s.cfg s.exmem s.dmem = .ok (t.memwb, t.dmem)
  fetch : fetchStage s o = some (t.ifid, t.pc)
  x : t.x = xAfterWb s
  idex : t.idex = o.idex
  exmem : t.exmem = executeStage s.cfg s.idex s.exmem s.memwb (xAfterWb s)
  cycle : t.cycle = s.cycle + 1
  halted : t.halted = none
  cfg : t.cfg = s.cfg

theorem commits_of_cycleWith {s t : State} {o : RegFile → DecodeOut} (h : cycleWith s o = .next t)
    (hh : t.halted = none) : Commits s (o (xAfterWb s)) t := by
  obtain ⟨hr, ⟨_, -, rfl⟩ | ⟨w, dmem, hm, ⟨-, rfl⟩ | ⟨f, p, hf, rfl⟩⟩⟩ := cycleWith_cases h
  · cases hh
  · cases hh
  · exact ⟨hr, hm, hf, rfl, rfl, rfl, rfl, hr, rfl⟩

/-- A step that does not halt commits what Decode puts out for the word in `IFID`. -/
theorem commits_of_step {s t : State} (h : step s = .next t) (hh : t.halted = none) :
    Commits s (decodeOut s (xAfterWb s)) t :=
  commits_of_cycleWith (step_eq_cycleWith s ▸ h) hh

/-- A cycle without a data error whose Fetch gives a latch commits. -/
theorem cycleWith_commits {s : State} {o : RegFile → DecodeOut} {f : IfId} {p : Word} (hr : s.halted = none)
    (hd : NoDataError s) (hf : fetchStage s (o (xAfterWb s)) = some (f, p)) :
    ∃ t, cycleWith s o = .next t ∧ Commits s (o (xAfterWb s)) t ∧ t.ifid = f ∧ t.pc = p := by
  obtain ⟨w, dmem, hm⟩ := (noDataError_iff s).mp hd
  refine ⟨_, by rw [cycleWith_of_ok hr hm, finishCycle_of_some hf], ?_, rfl, rfl⟩
  exact ⟨hr, hm, hf, rfl, rfl, rfl, rfl, hr, rfl⟩

/-- A cycle changes no parameter, whether it commits or halts (R21). -/
theorem cycleWith_cfg {s t : State} {o : RegFile → DecodeOut} (h : cycleWith s o = .next t) : t.cfg = s.cfg := by
  obtain ⟨-, ⟨_, -, rfl⟩ | ⟨_, _, -, ⟨-, rfl⟩ | ⟨_, _, -, rfl⟩⟩⟩ := cycleWith_cases h
  case inl => exact raiseFatal_cfg ..
  case inr.inl => exact raiseFatal_cfg ..
  case inr.inr => exact commitCycle_cfg ..

theorem step_cfg {s t : State} (h : step s = .next t) : t.cfg = s.cfg := cycleWith_cfg (step_eq_cycleWith s ▸ h)

/-! ### A cycle that halts (R147) -/

theorem finishCycle_of_none {s : State} {o : DecodeOut} (h : fetchStage s o = none) (x : RegFile) (w : MemWb)
    (dmem : Memory) : finishCycle s x w dmem o = raiseFatal s x dmem .misalignedFetch s.pc s.pc := by
  simp [finishCycle, h]

/-- Everything a cycle that halts can have done: Memory raised a data error, or a misaligned fetch was made. -/
theorem cycleWith_halts {s t : State} {o : RegFile → DecodeOut} {r : FatalRecord} (h : cycleWith s o = .next t)
    (hh : t.halted = some r) :
    (∃ code, memoryStage s.cfg s.exmem s.dmem = .error code ∧ r = ⟨code, s.cycle + 1, s.exmem.pc, s.exmem.aluResult⟩ ∧
      t = raiseFatal s (xAfterWb s) s.dmem code s.exmem.pc s.exmem.aluResult) ∨
    (∃ w dmem, memoryStage s.cfg s.exmem s.dmem = .ok (w, dmem) ∧ fetchStage s (o (xAfterWb s)) = none ∧
      r = ⟨.misalignedFetch, s.cycle + 1, s.pc, s.pc⟩ ∧
      t = raiseFatal s (xAfterWb s) dmem .misalignedFetch s.pc s.pc) := by
  obtain ⟨hr, ⟨code, hm, rfl⟩ | ⟨w, dmem, hm, ⟨hf, rfl⟩ | ⟨f, p, -, rfl⟩⟩⟩ := cycleWith_cases h
  · exact .inl ⟨code, hm, (Option.some.inj hh).symm, rfl⟩
  · exact .inr ⟨w, dmem, hm, hf, (Option.some.inj hh).symm, rfl⟩
  · rw [commitCycle_halted, hr] at hh; cases hh

theorem step_halts {s t : State} {r : FatalRecord} (h : step s = .next t) (hh : t.halted = some r) :
    (∃ code, memoryStage s.cfg s.exmem s.dmem = .error code ∧ r = ⟨code, s.cycle + 1, s.exmem.pc, s.exmem.aluResult⟩ ∧
      t = raiseFatal s (xAfterWb s) s.dmem code s.exmem.pc s.exmem.aluResult) ∨
    (∃ w dmem, memoryStage s.cfg s.exmem s.dmem = .ok (w, dmem) ∧
      fetchStage s (decodeOut s (xAfterWb s)) = none ∧ r = ⟨.misalignedFetch, s.cycle + 1, s.pc, s.pc⟩ ∧
      t = raiseFatal s (xAfterWb s) dmem .misalignedFetch s.pc s.pc) :=
  cycleWith_halts (step_eq_cycleWith s ▸ h) hh

/-- No access check answers the fetch error. -/
theorem memoryStage_error_ne_misalignedFetch {cfg : Cfg} {m : ExMem} {dmem : Memory} {code : FatalCode}
    (h : memoryStage cfg m dmem = .error code) : code ≠ .misalignedFetch := by
  obtain ⟨-, -, he⟩ := memoryStage_error_cases h
  rintro rfl
  rcases accessError_cases cfg m.aluResult with ⟨-, hc⟩ | ⟨-, -, hc⟩ | ⟨-, -, hc⟩ <;>
    · rw [hc] at he; cases he

/-- A step makes a misaligned fetch exactly when it does not stall and `pc` is misaligned in bounds. -/
theorem step_fetch_eq_none_iff (s : State) : fetchStage s (decodeOut s (xAfterWb s)) = none ↔
    stallWire s = false ∧ ifetch s.cfg s.pc = .misaligned := by
  rw [fetchStage_eq_none_iff, decodeOut_stall, decodeOut_flush]
  have hoff := stall_or_flush_off s
  cases hs : stallWire s <;> cases hf : flushWire s <;> simp_all

theorem ifetch_eq_misaligned_iff (cfg : Cfg) (a : Word) :
    ifetch cfg a = .misaligned ↔ Fetchable cfg a ∧ a.toNat % 4 ≠ 0 := by
  rw [Fetchable, ← inBounds_iff]
  rcases ifetch_cases cfg a with ⟨hb, h⟩ | ⟨hb, hm, h⟩ | ⟨hb, hm, h⟩
  · simp [h, hb]
  · simp [h, hb, hm]
  · simp [h, hm]

/-- The next `IFID` and `pc` of a step that commits, from the wires `stall`, `flush` and `redirect` (R114, R140). -/
theorem Commits.fetched {s t : State} (hc : Commits s (decodeOut s (xAfterWb s)) t) :
    t.ifid = (if stallWire s then s.ifid
      else if Fetchable s.cfg s.pc then ⟨true, flushWire s, s.pc, imemWord s.cfg s.pc⟩ else IfId.invalid) ∧
    t.pc = (if flushWire s then redirectWire s else if stallWire s then s.pc
      else if Fetchable s.cfg s.pc then s.pc + 4#32 else s.pc) ∧
    (stallWire s = false → Fetchable s.cfg s.pc → s.pc.toNat % 4 = 0) := by
  have hoff := stall_or_flush_off s
  have h := fetchStage_eq_some (by simpa using hoff) hc.fetch
  rw [decodeOut_stall, decodeOut_flush] at h
  cases hf : flushWire s
  · simpa [hf] using h
  · simpa [hf, decodeOut_redirect hf] using h

end Sys2Proof.Machine
end

section
/-! The hazard unit: when it stalls, and what plays no part in it (spec/45_hazard_unit.md R122 to R128). -/

namespace Sys2Proof.Machine

open Sys2Proof.Claims

theorem usesRs1_iff (o : Opcode) : usesRs1 o = true ↔ o ≠ 0x37#7 ∧ o ≠ 0x17#7 ∧ o ≠ 0x6F#7 := by
  simp [usesRs1, and_assoc]

theorem usesRs2_iff (o : Opcode) : usesRs2 o = true ↔ o = 0x33#7 ∨ o = 0x63#7 ∨ o = 0x23#7 := by
  simp [usesRs2, or_assoc]

theorem readsReg_iff (o : Opcode) (rs1 rs2 r : RegIdx) : readsReg o rs1 rs2 r = true ↔
    r ≠ 0#5 ∧ ((usesRs1 o = true ∧ rs1 = r) ∨ (usesRs2 o = true ∧ rs2 = r)) := by
  simp [readsReg]

theorem dec_reads_iff (d : Dec) (r : RegIdx) : d.reads r = true ↔
    r ≠ 0#5 ∧ ((usesRs1 d.opcode = true ∧ d.rs1 = r) ∨ (usesRs2 d.opcode = true ∧ d.rs2 = r)) :=
  readsReg_iff ..

/-- Register 0 is never read in the sense of R73. -/
@[simp] theorem dec_reads_zero (d : Dec) : d.reads 0#5 = false := by simp [Dec.reads, readsReg]

section
variable (cfg : Cfg) (d : Dec) (e : IdEx) (m : ExMem)

/-- The hazard condition, configuration by configuration (R122 to R125). -/
theorem hazard_iff : hazard cfg d e m = true ↔
    if cfg.fwdEn then
      (e.live = true ∧ e.ctrl.readsMemory = true ∧ d.reads e.rd = true) ∨
      (cfg.brInterlock = true ∧ (d.opcode = 0x63#7 ∨ d.opcode = 0x67#7) ∧
        ((e.live = true ∧ e.ctrl.writesRegister = true ∧ d.reads e.rd = true) ∨
          ((m.live = true ∧ m.ctrl.writesRegister = true ∧ d.reads m.rd = true) ∧ m.ctrl.readsMemory = true)))
    else (e.live = true ∧ e.ctrl.writesRegister = true ∧ d.reads e.rd = true) ∨
      (m.live = true ∧ m.ctrl.writesRegister = true ∧ d.reads m.rd = true) := by
  cases hfwd : cfg.fwdEn
  · simp [hazard, hfwd, hzNoFwd, and_assoc]
  · simp only [hazard, hfwd, hzFwd, hzBranch, if_true, Bool.or_eq_true, Bool.and_eq_true, beq_iff_eq]
    tauto

variable {d e m}

/-- A latch in EX that produces nothing the word reads counts as empty. -/
theorem hazard_of_no_idex_producer (hload : (e.ctrl.readsMemory && d.reads e.rd) = false)
    (hwrite : (e.ctrl.writesRegister && d.reads e.rd) = false) :
    hazard cfg d e m = hazard cfg d IdEx.invalid m := by
  simp [hazard, hzFwd, hzBranch, hzNoFwd, Bool.and_assoc, hload, hwrite]

/-- A latch in MEM that produces nothing the word reads counts as empty. -/
theorem hazard_of_no_exmem_producer (hwrite : (m.ctrl.writesRegister && d.reads m.rd) = false) :
    hazard cfg d e m = hazard cfg d e ExMem.invalid := by
  simp [hazard, hzBranch, hzNoFwd, Bool.and_assoc, hwrite]

/-- The hazard unit sees a word through its opcode and the registers it reads. -/
theorem hazard_congr_dec {d' : Dec} (ho : d'.opcode = d.opcode) (hr : ∀ r, d'.reads r = d.reads r) :
    hazard cfg d' e m = hazard cfg d e m := by
  simp only [hazard, hzFwd, hzBranch, hzNoFwd, ho, hr]

/-- A word that uses no source register never stalls. -/
theorem hazard_of_no_source (h1 : usesRs1 d.opcode = false) (h2 : usesRs2 d.opcode = false) (e : IdEx) (m : ExMem) :
    hazard cfg d e m = false := by
  have hr (r : RegIdx) : d.reads r = false := by simp [Dec.reads, readsReg, h1, h2]
  simp [hazard, hzFwd, hzBranch, hzNoFwd, hr]

end

/-- The classes that produce nothing: STORE, BRANCH and UNKNOWN (R128). -/
theorem ctrlOf_produces_nothing {c : OpClass} (h : c = .store ∨ c = .branch ∨ c = .unknown) :
    (ctrlOf c).writesRegister = false ∧ (ctrlOf c).readsMemory = false := by
  rcases h with rfl | rfl | rfl <;> exact ⟨rfl, rfl⟩

end Sys2Proof.Machine

namespace Sys2Proof.Claims

open Sys2Proof.Machine

/-- Settles O20: the hazard condition, with the registers the word reads written out by its bits. -/
theorem stallConditions : Obligations.StallConditions := by
  intro s w o reads inEx inMem
  have hreads (r : RegIdx) : (decodedIn s).reads r = true ↔ reads r := by
    rw [dec_reads_iff, usesRs1_iff, usesRs2_iff, and_assoc, and_assoc]
    rfl
  rw [stallWire, Bool.and_eq_true, hazard_iff, hreads, hreads]
  rfl

/-- Settles O21: each point is a part the condition does not have. -/
theorem hazardUnitPoints : Obligations.HazardUnitPoints := by
  intro cfg d e m
  refine ⟨?_, ?_, ?_, ?_, ?_, ?_, ?_, ?_, ?_, fun s w => rfl⟩
  · rintro ⟨c, hc, hnone⟩
    obtain ⟨hw, hr⟩ := ctrlOf_produces_nothing hnone
    exact hazard_of_no_idex_producer cfg (by rw [hc, hr, Bool.false_and]) (by rw [hc, hw, Bool.false_and])
  · rintro ⟨c, hc, hnone⟩
    obtain ⟨hw, -⟩ := ctrlOf_produces_nothing hnone
    exact hazard_of_no_exmem_producer cfg (by rw [hc, hw, Bool.false_and])
  · intro hrd
    exact hazard_of_no_idex_producer cfg (by simp [hrd]) (by simp [hrd])
  · intro hrd
    exact hazard_of_no_exmem_producer cfg (by simp [hrd])
  · intro h0 r hr
    obtain ⟨hne, ⟨-, heq⟩ | ⟨hu, heq⟩⟩ := (dec_reads_iff d r).mp hr
    · exact absurd (heq.symm.trans h0) hne
    · exact ⟨heq, hu⟩
  · intro h0 r hr
    obtain ⟨hne, ⟨hu, heq⟩ | ⟨-, heq⟩⟩ := (dec_reads_iff d r).mp hr
    · exact ⟨heq, hu⟩
    · exact absurd (heq.symm.trans h0) hne
  · intro ho r2
    have hu : usesRs2 d.opcode = false := by rcases ho with h | h | h <;> rw [h] <;> rfl
    exact hazard_congr_dec cfg rfl fun r => by simp [Dec.reads, readsReg, hu]
  · intro ho
    have hu : usesRs1 d.opcode = false ∧ usesRs2 d.opcode = false := by
      rcases ho with h | h | h <;> rw [h] <;> exact ⟨rfl, rfl⟩
    exact hazard_of_no_source cfg hu.1 hu.2 e m
  · intro hfwd hload hbranch hjalr
    rw [← Bool.not_eq_true, hazard_iff, hfwd, if_pos rfl, hload]
    rintro (⟨-, hl, -⟩ | ⟨-, ho | ho, -⟩)
    · cases hl
    · exact hbranch ho
    · exact hjalr ho

end Sys2Proof.Claims
end

section
/-! The pipeline invariant holds after reset and every step keeps it, clause by clause
(spec/44_pipeline_latch_controller.md R117). -/

namespace Sys2Proof.Safety

open Sys2Proof.Machine Sys2Proof.Claims

/-! ### The tuples of the classes (R70) -/

theorem ctrlOf_no_memory_of_controlFlow {c : OpClass} (h : (ctrlOf c).isControlFlow = true) :
    (ctrlOf c).readsMemory = false ∧ (ctrlOf c).writesMemory = false := by
  revert h
  cases c <;> decide

theorem ctrlOf_resultIsMemoryData (c : OpClass) : (ctrlOf c).resultIsMemoryData = (ctrlOf c).readsMemory := by
  cases c <;> rfl

/-! ### Reset -/

theorem pipelineInvariant_resetWith (cfg : Cfg) : PipelineInvariant (State.resetWith cfg) where
  zeroRegister := by simp [ZeroRegister, State.resetWith]
  memoryCanonical := resetWith_dmem_wf cfg
  latchesCanonical := ⟨fun _ => rfl, fun _ => .inl rfl, fun _ => .inl rfl, fun _ => .inl rfl⟩
  tuplesOfClasses := ⟨fun h => (Bool.false_ne_true h).elim, fun h => (Bool.false_ne_true h).elim,
    fun h => (Bool.false_ne_true h).elim⟩
  fetchedFromProgram := fun h => (Bool.false_ne_true h).elim
  faultingFetchIsYoungest := fun _ => ⟨rfl, fun h => (Bool.false_ne_true h).elim⟩
  operandsFresh := fun h => (Bool.false_ne_true h).elim

/-! ### A cycle that halts -/

/-- A fatal transition changes no latch, no `pc` and no parameter, so it keeps every clause about them (R147). -/
theorem pipelineInvariant_raiseFatal {s : State} (hinv : PipelineInvariant s) {dmem : Memory} (hwf : dmem.wf = true)
    (code : FatalCode) (p a : Word) : PipelineInvariant (raiseFatal s (xAfterWb s) dmem code p a) where
  zeroRegister := (writebackStage_entry_zero _ _).trans hinv.zeroRegister
  memoryCanonical := hwf
  latchesCanonical := hinv.latchesCanonical
  tuplesOfClasses := hinv.tuplesOfClasses
  fetchedFromProgram := hinv.fetchedFromProgram
  faultingFetchIsYoungest := hinv.faultingFetchIsYoungest
  operandsFresh := hinv.operandsFresh

/-! ### A cycle that commits, clause by clause -/

theorem exmem_tuple {s : State} (hinv : PipelineInvariant s) (h : s.exmem.live = true) :
    ∃ c, s.exmem.ctrl = ctrlOf c :=
  have ⟨_, hexmem, _⟩ := hinv.tuplesOfClasses
  hexmem h

section
variable {s t : State} (hc : Commits s (decodeOut s (xAfterWb s)) t)
include hc

/-- A live `IDEX` comes from a word that was live in Decode and did not stall. -/
theorem issued_of_idex_live (hl : t.idex.live = true) : s.ifid.live = true ∧ stallWire s = false ∧
    t.idex = (decodedIn s).latch s.ifid.pc := by
  rw [hc.idex] at hl ⊢
  rcases decode_cases s with ⟨hi, hs⟩ | ⟨hi, hs⟩ | ⟨hi, hs⟩
  · rw [decodeOut_of_not_live hi, decodeIdle_eq] at hl
    cases hv : s.ifid.valid <;> simp [hv] at hl
  · rw [decodeOut_of_stall hs] at hl
    cases hl
  · exact ⟨hi, hs, by rw [decodeOut_of_issue hi hs]⟩

/-- A live `EXMEM` comes from a live `IDEX`, with its tuple and destination. -/
theorem executed_of_exmem_live (hl : t.exmem.live = true) :
    s.idex.live = true ∧ t.exmem.ctrl = s.idex.ctrl ∧ t.exmem.rd = s.idex.rd := by
  rw [hc.exmem, executeStage_live] at hl
  rw [hc.exmem, executeStage_of_live hl]
  exact ⟨hl, rfl, rfl⟩

/-- A live `MEMWB` comes from a live `EXMEM`, with its tuple. -/
theorem accessed_of_memwb_live (hl : t.memwb.live = true) :
    s.exmem.live = true ∧ t.memwb.ctrl = s.exmem.ctrl := by
  obtain ⟨-, hw, -⟩ | ⟨hm, -, hw, -⟩ := memoryStage_ok_cases hc.memory
  · rw [hw] at hl
    split at hl <;> cases hl
  · exact ⟨hm, by rw [hw]⟩

theorem zeroRegister_kept (hinv : PipelineInvariant s) : ZeroRegister t := by
  rw [ZeroRegister, hc.x, writebackStage_entry_zero]
  exact hinv.zeroRegister

theorem latchesCanonical_kept (hinv : PipelineInvariant s) : LatchesCanonical t := by
  refine ⟨fun hv => ?_, fun hl => ?_, fun hl => ?_, fun hl => ?_⟩
  · rw [hc.fetched.1] at hv ⊢
    split_ifs at hv ⊢
    · exact hinv.latchesCanonical.1 hv
    · rfl
  · rw [hc.idex] at hl ⊢
    rcases decode_cases s with ⟨hi, hs⟩ | ⟨hi, hs⟩ | ⟨hi, hs⟩
    · rw [decodeOut_of_not_live hi, decodeIdle_eq]
      cases s.ifid.valid
      · exact .inl rfl
      · exact .inr rfl
    · rw [decodeOut_of_stall hs]
      exact .inr rfl
    · rw [decodeOut_of_issue hi hs] at hl
      cases hl
  · rw [hc.exmem, executeStage_live] at hl
    rw [hc.exmem, executeStage_of_not_live hl]
    cases s.idex.valid
    · exact .inl rfl
    · exact .inr rfl
  · obtain ⟨-, hw, -⟩ | ⟨-, -, hw, -⟩ := memoryStage_ok_cases hc.memory
    · rw [hw]
      cases s.exmem.valid
      · exact .inl rfl
      · exact .inr rfl
    · rw [hw] at hl
      cases hl

theorem tuplesOfClasses_kept (hinv : PipelineInvariant s) : TuplesOfClasses t := by
  obtain ⟨hidex, hexmem, -⟩ := hinv.tuplesOfClasses
  refine ⟨fun hl => ?_, fun hl => ?_, fun hl => ?_⟩
  · obtain ⟨-, -, he⟩ := issued_of_idex_live hc hl
    rw [he, hc.cfg]
    rfl
  · obtain ⟨hl', hctrl, -⟩ := executed_of_exmem_live hc hl
    exact ⟨_, hctrl.trans (hidex hl')⟩
  · obtain ⟨hl', hctrl⟩ := accessed_of_memwb_live hc hl
    exact hctrl ▸ hexmem hl'

/-- A live `IFID` is the retained one of a stall, or the word just fetched with `pc` moved behind it. -/
theorem fetchedFromProgram_kept (hinv : PipelineInvariant s) : FetchedFromProgram t := by
  intro hl
  obtain ⟨hifid, hpc, haligned⟩ := hc.fetched
  rw [hc.cfg]
  cases hs : stallWire s
  case true =>
    have hf : flushWire s = false := by simp [hs]
    simp only [hs, hf, if_true, Bool.false_eq_true, if_false] at hifid hpc
    rw [hifid, hpc]
    exact hinv.fetchedFromProgram (live_of_stallWire hs)
  case false =>
    by_cases hfe : Fetchable s.cfg s.pc
    · cases hf : flushWire s
      · simp only [hs, hf, hfe, if_true, Bool.false_eq_true, if_false] at hifid hpc
        rw [hifid, hpc]
        refine ⟨?_, rfl⟩
        have hin := (inBounds_iff s.cfg s.pc).mpr hfe
        rcases ifetch_cases s.cfg s.pc with ⟨hb, -⟩ | ⟨-, hm, -⟩ | ⟨-, -, hw⟩
        · simp [hb] at hin
        · exact absurd (haligned hs hfe) hm
        · exact hw
      · simp only [hs, hf, hfe, if_true, Bool.false_eq_true, if_false] at hifid
        rw [hifid] at hl
        cases hl
    · simp only [hs, hfe, Bool.false_eq_true, if_false] at hifid
      rw [hifid] at hl
      cases hl

/-- A `pc` that would fault comes from a redirect: a stalled or advanced `pc` lies behind a word fetched at an aligned
address, and one that holds is out of bounds. -/
theorem flush_of_faulting_fetch (hinv : PipelineInvariant s) (hfault : ifetch t.cfg t.pc = .misaligned) :
    flushWire s = true := by
  by_contra hf
  rw [Bool.not_eq_true] at hf
  obtain ⟨-, hpc, haligned⟩ := hc.fetched
  rw [hc.cfg] at hfault
  cases hs : stallWire s
  case true =>
    simp only [hs, hf, if_true, Bool.false_eq_true, if_false] at hpc
    have hnl := (hinv.faultingFetchIsYoungest (hpc ▸ hfault)).1
    rw [live_of_stallWire hs] at hnl
    cases hnl
  case false =>
    obtain ⟨hfe', hmis⟩ := (ifetch_eq_misaligned_iff _ _).mp hfault
    by_cases hfe : Fetchable s.cfg s.pc
    · simp only [hs, hf, hfe, if_true, Bool.false_eq_true, if_false] at hpc
      have ha := haligned hs hfe
      rw [hpc, BitVec.toNat_add] at hmis
      simp only [BitVec.toNat_ofNat] at hmis
      omega
    · simp only [hs, hf, hfe, Bool.false_eq_true, if_false] at hpc
      exact hfe (hpc ▸ hfe')

theorem faultingFetchIsYoungest_kept (hinv : PipelineInvariant s) : FaultingFetchIsYoungest t := by
  intro hfault
  have hf := flush_of_faulting_fetch hc hinv hfault
  obtain ⟨-, hs, hcf⟩ := (flushWire_iff s).mp hf
  refine ⟨?_, fun hl => ?_⟩
  · rw [hc.fetched.1, hs, hf, if_neg Bool.false_ne_true]
    split <;> rfl
  · obtain ⟨-, -, he⟩ := issued_of_idex_live hc hl
    rw [he]
    exact ctrlOf_no_memory_of_controlFlow hcf

/-- The hazard unit let the word now in Execute pass, so the word ahead of it supplies no operand too late
(R123, R125). -/
theorem operandsFresh_kept : OperandsFresh t := by
  intro hl hm hw hload
  obtain ⟨hi, hs, he⟩ := issued_of_idex_live hc hl
  obtain ⟨hl', hctrl, hrd⟩ := executed_of_exmem_live hc hm
  rw [hctrl] at hw hload
  rw [hc.cfg] at hload
  have hz : ¬ hazard s.cfg (decodedIn s) s.idex s.exmem = true := by
    rw [← stallWire_of_live hi, hs]
    exact Bool.false_ne_true
  rw [he, hrd, ← Bool.not_eq_true]
  intro hreads
  apply hz
  rw [hazard_iff]
  cases hfwd : s.cfg.fwdEn
  · exact .inl ⟨hl', hw, hreads⟩
  · exact .inl ⟨hl', hload hfwd, hreads⟩

theorem pipelineInvariant_commits (hinv : PipelineInvariant s) : PipelineInvariant t where
  zeroRegister := zeroRegister_kept hc hinv
  memoryCanonical := memoryStage_wf hinv.memoryCanonical hc.memory
  latchesCanonical := latchesCanonical_kept hc hinv
  tuplesOfClasses := tuplesOfClasses_kept hc hinv
  fetchedFromProgram := fetchedFromProgram_kept hc hinv
  faultingFetchIsYoungest := faultingFetchIsYoungest_kept hc hinv
  operandsFresh := operandsFresh_kept hc

end

theorem pipelineInvariant_step {s t : State} (hinv : PipelineInvariant s) (h : step s = .next t) :
    PipelineInvariant t := by
  cases hh : t.halted with
  | none => exact pipelineInvariant_commits (commits_of_step h hh) hinv
  | some r =>
    obtain ⟨code, -, -, rfl⟩ | ⟨w, dmem, hm, -, -, rfl⟩ := step_halts h hh
    · exact pipelineInvariant_raiseFatal hinv hinv.memoryCanonical _ _ _
    · exact pipelineInvariant_raiseFatal hinv (memoryStage_wf hinv.memoryCanonical hm) _ _ _

end Sys2Proof.Safety

namespace Sys2Proof.Claims

open Sys2Proof.Safety

/-- Settles O46: every latch is `INVALID`, so the clauses about live latches are empty. -/
theorem pipelineInvariantAtReset : Obligations.PipelineInvariantAtReset :=
  ⟨pipelineInvariant_resetWith _, pipelineInvariant_resetWith⟩

/-- Settles O47: a cycle that commits keeps each clause, one that halts changes nothing but `x` and `dmem`. -/
theorem pipelineInvariantKept : Obligations.PipelineInvariantKept :=
  fun _ _ hinv h => pipelineInvariant_step hinv h

end Sys2Proof.Claims
end

section
/-! What the instruction in Execute computes, class by class (spec/40_integer_compute.md R82), and the link between the
stages and the sequential machine: an instruction's architectural effect is what Execute, Memory and Writeback make of
its latch when nothing is ahead of it (spec/70_reset_and_hazards.md R167). -/

namespace Sys2Proof.Machine

/-! ### Execute, class by class (R81, R82) -/

section
variable {cfg : Cfg} {e : IdEx} (v1 v2 : Word)

theorem exResult_op (h : classOf cfg.auipcEn e.opcode = .op) : exResult cfg e v1 v2 =
    (if e.funct3 = 0#3 ∧ e.funct7 = 0#7 then v1 + v2 else aluExt cfg .op e.funct3 e.funct7 v1 v2, false) := by
  by_cases hadd : e.funct3 = 0#3 ∧ e.funct7 = 0#7
  · simp only [exResult, h, extClassOf, if_pos hadd]; rfl
  · simp only [exResult, h, extClassOf, if_neg hadd]; rfl

theorem exResult_opImm (h : classOf cfg.auipcEn e.opcode = .opImm) : exResult cfg e v1 v2 =
    (if e.funct3 = 0#3 then v1 + e.imm else aluExt cfg .opImm e.funct3 e.funct7 v1 e.imm, false) := by
  by_cases haddi : e.funct3 = 0#3
  · simp only [exResult, h, extClassOf, if_pos haddi]; rfl
  · simp only [exResult, h, extClassOf, if_neg haddi]; rfl

theorem exResult_load (h : classOf cfg.auipcEn e.opcode = .load) : exResult cfg e v1 v2 = (v1 + e.imm, false) := by
  simp only [exResult, h]; rfl

theorem exResult_store (h : classOf cfg.auipcEn e.opcode = .store) : exResult cfg e v1 v2 = (v1 + e.imm, false) := by
  simp only [exResult, h]; rfl

/-- The effective address of LOAD and STORE (R89). -/
theorem exResult_of_access (h : e.opcode = 0x03#7 ∨ e.opcode = 0x23#7) :
    exResult cfg e v1 v2 = (v1 + e.imm, false) := by
  rcases h with ho | ho
  · exact exResult_load v1 v2 (by rw [ho]; rfl)
  · exact exResult_store v1 v2 (by rw [ho]; rfl)

theorem exResult_branch (h : classOf cfg.auipcEn e.opcode = .branch) :
    exResult cfg e v1 v2 = (0#32, wordsEqual v1 v2) := by
  simp only [exResult, h]; rfl

theorem exResult_jal (h : classOf cfg.auipcEn e.opcode = .jal) : exResult cfg e v1 v2 = (e.pc + 4#32, false) := by
  simp only [exResult, h]; rfl

theorem exResult_jalr (h : classOf cfg.auipcEn e.opcode = .jalr) : exResult cfg e v1 v2 = (e.pc + 4#32, false) := by
  simp only [exResult, h]; rfl

theorem exResult_lui (h : classOf cfg.auipcEn e.opcode = .lui) : exResult cfg e v1 v2 = (e.imm, false) := by
  simp only [exResult, h, extClassOf, aluOperands, aluExecute, aluResultOut, isEqualOut, BitVec.zero_add]

theorem exResult_auipc (h : classOf cfg.auipcEn e.opcode = .auipc) : exResult cfg e v1 v2 = (e.pc + e.imm, false) := by
  simp only [exResult, h]; rfl

theorem exResult_unknown (h : classOf cfg.auipcEn e.opcode = .unknown) : exResult cfg e v1 v2 = (0#32, false) := by
  simp only [exResult, h]; rfl

end

/-! ### Writeback (R110) -/

/-- What a read sees after Writeback. -/
theorem readReg_writebackStage (w : MemWb) (x : RegFile) (r : RegIdx) :
    readReg (writebackStage w x) r = if matchesMemWb r w then selectedResult w else readReg x r := by
  unfold writebackStage matchesMemWb
  by_cases h0 : r = 0#5
  · subst h0
    simp
  by_cases hr : w.rd = r
  · subst hr
    cases w.live <;> cases w.ctrl.writesRegister <;> simp [h0, readReg_writeReg]
  · have hr' : r ≠ w.rd := Ne.symm hr
    simp only [beq_eq_false_iff_ne.mpr hr, Bool.and_false, Bool.false_eq_true, if_false]
    split
    · rw [readReg_writeReg, if_neg (fun h => hr' h.2)]
    · rfl

theorem writebackStage_of_writes {w : MemWb} (hl : w.live = true) (hw : w.ctrl.writesRegister = true) (x : RegFile) :
    writebackStage w x = writeReg x w.rd (selectedResult w) := by
  by_cases h0 : w.rd = 0#5
  · rw [writebackStage_of_rd_zero h0, h0, writeReg_zero]
  · simp [writebackStage, hl, hw, h0]

theorem writebackStage_of_not_writes {w : MemWb} (hw : w.ctrl.writesRegister = false) (x : RegFile) :
    writebackStage w x = x := by
  simp [writebackStage, hw]

end Sys2Proof.Machine

namespace Sys2Proof.Safety

open Sys2Proof.Machine Sys2Proof.Claims

/-! ### The effect of a latch in MEM (R110, R111) -/

section
variable {cfg : Cfg} {m : ExMem} {x x' : RegFile} {dmem dmem' : Memory}

theorem completeMem_of_error {code : FatalCode} (h : memoryStage cfg m dmem = .error code) :
    completeMem cfg m x dmem = .error code := by
  rw [completeMem, h]

theorem completeMem_of_ok {w : MemWb} (h : memoryStage cfg m dmem = .ok (w, dmem')) :
    completeMem cfg m x dmem = .ok (writebackStage w x, dmem') := by
  rw [completeMem, h]

theorem completeMem_of_not_live (h : m.live = false) : completeMem cfg m x dmem = .ok (x, dmem) := by
  rw [completeMem_of_ok (memoryStage_of_not_live h dmem)]
  split <;> rfl

/-- A latch that accesses no memory and writes its ALU result. -/
theorem completeMem_of_register (hl : m.live = true) (hw : m.ctrl.writesRegister = true)
    (hr : m.ctrl.readsMemory = false) (hs : m.ctrl.writesMemory = false) (hd : m.ctrl.resultIsMemoryData = false) :
    completeMem cfg m x dmem = .ok (writeReg x m.rd m.aluResult, dmem) := by
  rw [completeMem_of_ok (memoryStage_of_live hl (by simp [hr, hs]) dmem), writebackStage_of_writes rfl hw]
  simp [selectedResult, hs, hd]

/-- A latch that accesses no memory and writes no register. -/
theorem completeMem_of_silent (hw : m.ctrl.writesRegister = false) (hr : m.ctrl.readsMemory = false)
    (hs : m.ctrl.writesMemory = false) : completeMem cfg m x dmem = .ok (x, dmem) := by
  cases hl : m.live
  · exact completeMem_of_not_live hl
  · rw [completeMem_of_ok (memoryStage_of_live hl (by simp [hr, hs]) dmem), writebackStage_of_not_writes hw]
    simp [hs]

/-- What a register reads after the instruction in MEM: the result it selects if it is its destination. -/
theorem readReg_after_memoryStage {w : MemWb} (h : memoryStage cfg m dmem = .ok (w, dmem')) (r : RegIdx) :
    readReg (writebackStage w x) r =
      if matchesExMem r m then (if m.ctrl.resultIsMemoryData then w.memData else m.aluResult) else readReg x r := by
  rw [readReg_writebackStage]
  obtain ⟨hl, rfl, -⟩ | ⟨hl, -, rfl, -⟩ := memoryStage_ok_cases h
  · cases m.valid <;> simp [matchesMemWb, matchesExMem, hl]
  · simp [matchesMemWb, matchesExMem, selectedResult, hl, MemWb.live]

end

/-! ### The effect of a latch in EX with nothing ahead of it -/

theorem executeFrom_of_live {e : IdEx} (h : e.live = true) (cfg : Cfg) (x : RegFile) : executeFrom cfg e x =
    exLatch cfg e (if usesRs1 e.opcode then readReg x e.rs1 else 0#32)
      (if usesRs2 e.opcode then readReg x e.rs2 else 0#32) := if_pos h

theorem executeFrom_of_not_live {e : IdEx} (h : e.live = false) (cfg : Cfg) (x : RegFile) :
    executeFrom cfg e x = ExMem.invalid := by
  rw [executeFrom, h, if_neg Bool.false_ne_true]

/-- What the sequential machine does with the instruction of the latch `e`, when the next instruction is at `next`. -/
def retireFrom (cfg : Cfg) (e : IdEx) (next : Word) (x : RegFile) (dmem : Memory) : SeqOutcome :=
  match completeMem cfg (executeFrom cfg e x) x dmem with
  | .error code => .fatal code e.pc (executeFrom cfg e x).aluResult
  | .ok (x', dmem') => .running ⟨next, x', dmem'⟩

section
variable {cfg : Cfg} {e : IdEx} {next : Word} {x x' : RegFile} {dmem dmem' : Memory}

theorem retireFrom_of_ok (h : completeMem cfg (executeFrom cfg e x) x dmem = .ok (x', dmem')) :
    retireFrom cfg e next x dmem = .running ⟨next, x', dmem'⟩ := by
  rw [retireFrom, h]

theorem retireFrom_of_error {code : FatalCode} (h : completeMem cfg (executeFrom cfg e x) x dmem = .error code) :
    retireFrom cfg e next x dmem = .fatal code e.pc (executeFrom cfg e x).aluResult := by
  rw [retireFrom, h]

theorem retireFrom_of_not_live (h : e.live = false) : retireFrom cfg e next x dmem = .running ⟨next, x, dmem⟩ :=
  retireFrom_of_ok (by rw [executeFrom_of_not_live h, completeMem_of_not_live rfl])

theorem retireFrom_of_silent (hl : e.live = true) (hw : e.ctrl.writesRegister = false)
    (hr : e.ctrl.readsMemory = false) (hs : e.ctrl.writesMemory = false) :
    retireFrom cfg e next x dmem = .running ⟨next, x, dmem⟩ :=
  retireFrom_of_ok (by rw [executeFrom_of_live hl]; exact completeMem_of_silent hw hr hs)

theorem retireFrom_of_register (hl : e.live = true) (hw : e.ctrl.writesRegister = true)
    (hr : e.ctrl.readsMemory = false) (hs : e.ctrl.writesMemory = false) (hd : e.ctrl.resultIsMemoryData = false) :
    retireFrom cfg e next x dmem = .running ⟨next, writeReg x e.rd (executeFrom cfg e x).aluResult, dmem⟩ :=
  retireFrom_of_ok (by rw [executeFrom_of_live hl]; exact completeMem_of_register rfl hw hr hs hd)

/-- A load reads at the address Execute computed (R90). -/
theorem retireFrom_load (hl : e.live = true) (hc : e.ctrl = ctrlOf .load) :
    retireFrom cfg e (e.pc + 4#32) x dmem =
      archLoad cfg ⟨e.pc, x, dmem⟩ e.rd (executeFrom cfg e x).aluResult := by
  have hctrl : (executeFrom cfg e x).ctrl = ctrlOf .load := by rw [executeFrom_of_live hl]; exact hc
  have hlive : (executeFrom cfg e x).live = true := by rw [executeFrom_of_live hl]; rfl
  have hrd : (executeFrom cfg e x).rd = e.rd := by rw [executeFrom_of_live hl]; rfl
  cases ha : accessError cfg (executeFrom cfg e x).aluResult with
  | some code =>
    rw [retireFrom_of_error (completeMem_of_error (memoryStage_of_error hlive (.inl (by rw [hctrl]; rfl)) ha dmem))]
    simp [archLoad, memRead, ha]
  | none =>
    rw [retireFrom_of_ok (completeMem_of_ok (memoryStage_of_live hlive (fun _ => ha) dmem)),
      writebackStage_of_writes rfl (by rw [hctrl]; rfl), hctrl]
    simp [archLoad, memRead, ha, archWrite, selectedResult, ctrlOf, hrd]

/-- A store writes the resolved `rs2` at the address Execute computed (R92). -/
theorem retireFrom_store (hl : e.live = true) (hc : e.ctrl = ctrlOf .store) :
    retireFrom cfg e (e.pc + 4#32) x dmem =
      archStore cfg ⟨e.pc, x, dmem⟩ (executeFrom cfg e x).aluResult (executeFrom cfg e x).storeData := by
  have hctrl : (executeFrom cfg e x).ctrl = ctrlOf .store := by rw [executeFrom_of_live hl]; exact hc
  have hlive : (executeFrom cfg e x).live = true := by rw [executeFrom_of_live hl]; rfl
  cases ha : accessError cfg (executeFrom cfg e x).aluResult with
  | some code =>
    rw [retireFrom_of_error (completeMem_of_error (memoryStage_of_error hlive (.inr (by rw [hctrl]; rfl)) ha dmem))]
    simp [archStore, memWrite, ha]
  | none =>
    rw [retireFrom_of_ok (completeMem_of_ok (memoryStage_of_live hlive (fun _ => ha) dmem)),
      writebackStage_of_not_writes (by rw [hctrl]; rfl), hctrl]
    simp [archStore, memWrite, ha, ctrlOf]

end

/-! ### The architectural effect of an instruction, from its decode record -/

/-- The address after the instruction with decode record `d` at `p`, its operands read from `x` (R136, R140). -/
def seqNextPc (cfg : Cfg) (d : Dec) (p : Word) (x : RegFile) : Word :=
  if d.ctrl.isControlFlow then
    redirectOf (resolveWith (classOf cfg.auipcEn d.opcode) p d.imm (readReg x d.rs1) (readReg x d.rs2)) p
  else p + 4#32

section
variable (cfg : Cfg) (a : ArchState)

/-- Classes that write their ALU result and go on behind themselves. -/
theorem archWrite_eq_retireFrom (d : Dec) {v : Word} (hw : d.ctrl.writesRegister = true)
    (hr : d.ctrl.readsMemory = false) (hs : d.ctrl.writesMemory = false) (hd : d.ctrl.resultIsMemoryData = false)
    (hcf : d.ctrl.isControlFlow = false) (hv : (executeFrom cfg (d.latch a.pc) a.x).aluResult = v) :
    archWrite a d.rd v = retireFrom cfg (d.latch a.pc) (seqNextPc cfg d a.pc a.x) a.x a.dmem := by
  rw [retireFrom_of_register rfl hw hr hs hd, seqNextPc, hcf, hv]
  rfl

theorem archOp_eq_retireFrom (f3 : BitVec 3) (f7 : BitVec 7) (rd rs1 rs2 : RegIdx) :
    archWrite a rd (if f3 = 0#3 ∧ f7 = 0#7 then readReg a.x rs1 + readReg a.x rs2
        else aluExt cfg .op f3 f7 (readReg a.x rs1) (readReg a.x rs2)) =
      retireFrom cfg ((decR .op 0x33#7 f3 f7 rd rs1 rs2).latch a.pc)
        (seqNextPc cfg (decR .op 0x33#7 f3 f7 rd rs1 rs2) a.pc a.x) a.x a.dmem := by
  refine archWrite_eq_retireFrom cfg a (decR .op 0x33#7 f3 f7 rd rs1 rs2) rfl rfl rfl rfl rfl ?_
  rw [executeFrom_of_live rfl, exLatch, exResult_op _ _ rfl]
  rfl

theorem archOpImm_eq_retireFrom (f3 : BitVec 3) (rd rs1 : RegIdx) (imm : BitVec 12) :
    archWrite a rd (if f3 = 0#3 then readReg a.x rs1 + sext12 imm
        else aluExt cfg .opImm f3 (imm.extractLsb' 5 7) (readReg a.x rs1) (sext12 imm)) =
      retireFrom cfg ((decI .opImm 0x13#7 f3 rd rs1 imm).latch a.pc)
        (seqNextPc cfg (decI .opImm 0x13#7 f3 rd rs1 imm) a.pc a.x) a.x a.dmem := by
  refine archWrite_eq_retireFrom cfg a (decI .opImm 0x13#7 f3 rd rs1 imm) rfl rfl rfl rfl rfl ?_
  rw [executeFrom_of_live rfl, exLatch, exResult_opImm _ _ rfl]
  rfl

theorem archLui_eq_retireFrom (rd : RegIdx) (imm20 : BitVec 20) : archLui rd imm20 a =
    retireFrom cfg ((decLui rd imm20).latch a.pc) (seqNextPc cfg (decLui rd imm20) a.pc a.x) a.x a.dmem := by
  refine archWrite_eq_retireFrom cfg a (decLui rd imm20) rfl rfl rfl rfl rfl ?_
  rw [executeFrom_of_live rfl, exLatch, exResult_lui _ _ rfl]
  rfl

theorem archAuipc_eq_retireFrom (rd : RegIdx) (imm20 : BitVec 20) : archAuipc cfg rd imm20 a =
    retireFrom cfg ((decAuipc cfg.auipcEn rd imm20).latch a.pc) (seqNextPc cfg (decAuipc cfg.auipcEn rd imm20) a.pc a.x)
      a.x a.dmem := by
  cases hen : cfg.auipcEn
  · rw [retireFrom_of_silent rfl rfl rfl rfl]
    simp [archAuipc, hen, archSkip, seqNextPc, decAuipc, decU, ctrlOf, Ctrl.allFalse]
  · rw [archAuipc, hen, if_pos rfl]
    refine archWrite_eq_retireFrom cfg a (decAuipc true rd imm20) rfl rfl rfl rfl rfl ?_
    rw [executeFrom_of_live rfl, exLatch, exResult_auipc _ _ (by rw [hen]; rfl)]
    rfl

theorem archLoad_eq_retireFrom (f3 : BitVec 3) (rd rs1 : RegIdx) (imm : BitVec 12) :
    archLoad cfg a rd (readReg a.x rs1 + sext12 imm) =
      retireFrom cfg ((decI .load 0x03#7 f3 rd rs1 imm).latch a.pc)
        (seqNextPc cfg (decI .load 0x03#7 f3 rd rs1 imm) a.pc a.x) a.x a.dmem := by
  refine Eq.trans ?_ (retireFrom_load (e := (decI .load 0x03#7 f3 rd rs1 imm).latch a.pc) rfl rfl).symm
  rw [executeFrom_of_live rfl, exLatch, exResult_load _ _ rfl]
  rfl

theorem archStore_eq_retireFrom (f3 : BitVec 3) (rs1 rs2 : RegIdx) (imm : BitVec 12) :
    archStore cfg a (readReg a.x rs1 + sext12 imm) (readReg a.x rs2) =
      retireFrom cfg ((decS .store 0x23#7 f3 rs1 rs2 imm).latch a.pc)
        (seqNextPc cfg (decS .store 0x23#7 f3 rs1 rs2 imm) a.pc a.x) a.x a.dmem := by
  refine Eq.trans ?_ (retireFrom_store (e := (decS .store 0x23#7 f3 rs1 rs2 imm).latch a.pc) rfl rfl).symm
  rw [executeFrom_of_live rfl, exLatch, exResult_store _ _ rfl]
  rfl

theorem archBranch_eq_retireFrom (f3 : BitVec 3) (rs1 rs2 : RegIdx) (off : BitVec 12) :
    archBranch a rs1 rs2 (sextB off) =
      retireFrom cfg ((decB .branch 0x63#7 f3 rs1 rs2 off).latch a.pc)
        (seqNextPc cfg (decB .branch 0x63#7 f3 rs1 rs2 off) a.pc a.x) a.x a.dmem := by
  rw [retireFrom_of_silent rfl rfl rfl rfl]
  rfl

theorem archJal_eq_retireFrom (rd : RegIdx) (off : BitVec 20) : archJal rd off a =
    retireFrom cfg ((decJal rd off).latch a.pc) (seqNextPc cfg (decJal rd off) a.pc a.x) a.x a.dmem := by
  rw [retireFrom_of_register rfl rfl rfl rfl rfl, executeFrom_of_live rfl, exLatch, exResult_jal _ _ rfl]
  rfl

theorem archJalr_eq_retireFrom (f3 : BitVec 3) (rd rs1 : RegIdx) (imm : BitVec 12) :
    archJump a rd (clearBit0 (readReg a.x rs1 + sext12 imm)) =
      retireFrom cfg ((decI .jalr 0x67#7 f3 rd rs1 imm).latch a.pc)
        (seqNextPc cfg (decI .jalr 0x67#7 f3 rd rs1 imm) a.pc a.x) a.x a.dmem := by
  rw [retireFrom_of_register rfl rfl rfl rfl rfl, executeFrom_of_live rfl, exLatch, exResult_jalr _ _ rfl]
  rfl

theorem archUnknown_eq_retireFrom (w : Word) : archUnknown w a =
    retireFrom cfg ((decUnknown w).latch a.pc) (seqNextPc cfg (decUnknown w) a.pc a.x) a.x a.dmem := by
  rw [retireFrom_of_silent rfl rfl rfl rfl]
  rfl

/-- The architectural effect of every instruction is what Execute, Memory and Writeback make of its latch when its
operands are the registers, and its next address is the one Decode resolves from them. -/
theorem archExec_eq_retireFrom (i : Instr) : archExec cfg i a =
    retireFrom cfg ((decOf cfg.auipcEn i).latch a.pc) (seqNextPc cfg (decOf cfg.auipcEn i) a.pc a.x) a.x a.dmem := by
  cases i with
  | add rd rs1 rs2 => exact archOp_eq_retireFrom cfg a 0#3 0#7 rd rs1 rs2
  | opOther f3 f7 rd rs1 rs2 =>
    refine Eq.trans ?_ (archOp_eq_retireFrom cfg a f3 f7 rd rs1 rs2)
    simp only [archExec, archOpOther, archAdd]
    split <;> rfl
  | addi rd rs1 imm => exact archOpImm_eq_retireFrom cfg a 0#3 rd rs1 imm
  | opimmOther f3 rd rs1 imm =>
    refine Eq.trans ?_ (archOpImm_eq_retireFrom cfg a f3 rd rs1 imm)
    simp only [archExec, archOpimmOther, archAddi]
    split <;> rfl
  | lw rd rs1 imm => exact archLoad_eq_retireFrom cfg a 2#3 rd rs1 imm
  | loadOther f3 rd rs1 imm => exact archLoad_eq_retireFrom cfg a f3 rd rs1 imm
  | sw rs1 rs2 imm => exact archStore_eq_retireFrom cfg a 2#3 rs1 rs2 imm
  | storeOther f3 rs1 rs2 imm => exact archStore_eq_retireFrom cfg a f3 rs1 rs2 imm
  | beq rs1 rs2 off => exact archBranch_eq_retireFrom cfg a 0#3 rs1 rs2 off
  | branchOther f3 rs1 rs2 off => exact archBranch_eq_retireFrom cfg a f3 rs1 rs2 off
  | jal rd off => exact archJal_eq_retireFrom cfg a rd off
  | jalr rd rs1 imm => exact archJalr_eq_retireFrom cfg a 0#3 rd rs1 imm
  | jalrOther f3 rd rs1 imm => exact archJalr_eq_retireFrom cfg a f3 rd rs1 imm
  | lui rd imm20 => exact archLui_eq_retireFrom cfg a rd imm20
  | auipc rd imm20 => exact archAuipc_eq_retireFrom cfg a rd imm20
  | unknown w => exact archUnknown_eq_retireFrom cfg a w

end

end Sys2Proof.Safety
end

section
/-! The pipeline refines the sequential machine (spec/70_reset_and_hazards.md R166, R167): the operands the stages read
are the registers of the sequential state, so each cycle advances it by the instruction that leaves Decode. -/

namespace Sys2Proof.Safety

open Sys2Proof.Machine Sys2Proof.Claims

/-! ### Forwarding delivers the sequential register (R129, R133) -/

/-- With the write-first register file the MEMWB case of the selection gives what the register file holds (R133). -/
theorem fwdSelect_writebackStage (r : RegIdx) (m : ExMem) (w : MemWb) (x : RegFile) :
    fwdSelect r m w (writebackStage w x) =
      if matchesExMem r m then m.aluResult else readReg (writebackStage w x) r := by
  rw [readReg_writebackStage]
  by_cases hm : matchesExMem r m = true
  · rw [fwdSelect_of_matchesExMem hm, if_pos hm]
  by_cases hw : matchesMemWb r w = true
  · rw [fwdSelect_of_matchesMemWb hm hw, if_neg hm, if_pos hw]
  · rw [fwdSelect_of_no_match hm hw, readReg_writebackStage, if_neg hm, if_neg hw]

/-- An operand is the register as the instruction in MEM leaves it, unless that instruction supplies it too late: a
load, or any writer without forwarding. -/
theorem operand_eq_readReg {cfg : Cfg} {r : RegIdx} {m : ExMem} {w w' : MemWb} {x : RegFile} {dmem dmem' : Memory}
    (hm : memoryStage cfg m dmem = .ok (w', dmem')) (htuple : m.live = true → ∃ c, m.ctrl = ctrlOf c)
    (hfresh : matchesExMem r m = true → cfg.fwdEn = true ∧ m.ctrl.readsMemory = false) :
    operand cfg r m w (writebackStage w x) = readReg (writebackStage w' (writebackStage w x)) r := by
  rw [readReg_after_memoryStage hm]
  by_cases hx : matchesExMem r m = true
  · obtain ⟨hfwd, hload⟩ := hfresh hx
    obtain ⟨-, hl, -, -⟩ := (matchesExMem_iff r m).mp hx
    obtain ⟨c, hc⟩ := htuple hl
    have hsel : m.ctrl.resultIsMemoryData = false := by rw [hc, ctrlOf_resultIsMemoryData, ← hc, hload]
    rw [operand_of_fwdEn hfwd, fwdSelect_of_matchesExMem hx, if_pos hx, hsel, if_neg Bool.false_ne_true]
  · rw [if_neg hx, operand]
    split
    · rw [fwdSelect_writebackStage, if_neg hx]
    · rfl

/-! ### The sequential state (R167) -/

theorem architecturalState_of_error {s : State} {code : FatalCode}
    (h : memoryStage s.cfg s.exmem s.dmem = .error code) :
    architecturalState s = .fatal code s.exmem.pc s.exmem.aluResult := by
  rw [architecturalState, completeMem_of_error h]

/-- Once MEM is completed, what is left is the instruction in EX. -/
theorem architecturalState_of_ok {s : State} {w : MemWb} {dmem : Memory}
    (h : memoryStage s.cfg s.exmem s.dmem = .ok (w, dmem)) :
    architecturalState s = retireFrom s.cfg s.idex (issuePc s) (writebackStage w (xAfterWb s)) dmem := by
  rw [architecturalState, completeMem_of_ok h]
  rfl

/-! ### A cycle that commits -/

section
variable {s t : State} (hc : Commits s (decodeOut s (xAfterWb s)) t)
include hc

/-- The register file of the sequential state before the instruction in EX: what WB and MEM leave. -/
theorem xAfterWb_next : xAfterWb t = writebackStage t.memwb (xAfterWb s) := by
  rw [xAfterWb, hc.x]

/-- Where no instruction leaves Decode, the next one to be decoded stays the same: the retained word of a stall, or the
one at `pc`. -/
theorem issuePc_of_no_issue (h : ¬ (s.ifid.live = true ∧ stallWire s = false)) : issuePc t = issuePc s := by
  obtain ⟨hifid, hpc, -⟩ := hc.fetched
  rcases decode_cases s with ⟨hi, hs⟩ | ⟨hi, hs⟩ | hissue
  · have hf : flushWire s = false := by simp [hi]
    simp only [hs, hf, Bool.false_eq_true, if_false] at hifid hpc
    rw [issuePc, issuePc, hi, hifid, hpc]
    split <;> rfl
  · have hf : flushWire s = false := by simp [hs]
    simp only [hs, hf, if_true, Bool.false_eq_true, if_false] at hifid hpc
    rw [issuePc, issuePc, hifid, hpc]
  · exact absurd hissue h

/-- A control-flow word that leaves Decode flushes the word behind it and redirects `pc`. -/
theorem issuePc_of_flush (hf : flushWire s = true) : issuePc t = redirectWire s := by
  obtain ⟨hifid, hpc, -⟩ := hc.fetched
  obtain ⟨-, hs, -⟩ := (flushWire_iff s).mp hf
  rw [hf, if_pos rfl] at hpc
  rw [hs, hf, if_neg Bool.false_ne_true] at hifid
  have hl : t.ifid.live = false := by rw [hifid]; split <;> rfl
  rw [issuePc, hl, hpc, if_neg Bool.false_ne_true]

end

section
variable {s t : State} (hinv : PipelineInvariant s) (hc : Commits s (decodeOut s (xAfterWb s)) t)
include hinv hc

/-- What Execute writes is what the instruction computes from the sequential registers. -/
theorem exmem_eq_executeFrom (hl : s.idex.live = true) : t.exmem = executeFrom s.cfg s.idex (xAfterWb t) := by
  have hop (r : RegIdx) (hr : r ≠ 0#5 → readsReg s.idex.opcode s.idex.rs1 s.idex.rs2 r = true) :
      operandIn s r = readReg (xAfterWb t) r := by
    rw [xAfterWb_next hc]
    refine operand_eq_readReg hc.memory (exmem_tuple hinv) fun hx => ?_
    obtain ⟨h0, hm, hw, hrd⟩ := (matchesExMem_iff r _).mp hx
    by_contra hlate
    have hnot := hinv.operandsFresh hl hm hw fun hfwd => by simpa [hfwd] using hlate
    rw [hrd, hr h0] at hnot
    cases hnot
  rw [hc.exmem, executeStage_of_live hl, executeFrom_of_live hl]
  congr 1
  · split
    case isTrue hu => exact hop _ fun h0 => (readsReg_iff ..).mpr ⟨h0, .inl ⟨hu, rfl⟩⟩
    case isFalse => rfl
  · split
    case isTrue hu => exact hop _ fun h0 => (readsReg_iff ..).mpr ⟨h0, .inr ⟨hu, rfl⟩⟩
    case isFalse => rfl

/-- If the instruction in EX will raise a data error, both states stand for that error. -/
theorem architecturalState_of_next_error {code : FatalCode} (h : memoryStage t.cfg t.exmem t.dmem = .error code) :
    architecturalState t = .fatal code t.exmem.pc t.exmem.aluResult ∧
      architecturalState s = .fatal code t.exmem.pc t.exmem.aluResult := by
  refine ⟨architecturalState_of_error h, ?_⟩
  obtain ⟨hl, -, -⟩ := executed_of_exmem_live hc (memoryStage_error_cases h).1
  have he := exmem_eq_executeFrom hinv hc hl
  have hpc : t.exmem.pc = s.idex.pc := by rw [he, executeFrom_of_live hl]; rfl
  rw [hc.cfg, he] at h
  rw [architecturalState_of_ok hc.memory, ← xAfterWb_next hc, retireFrom_of_error (completeMem_of_error h), hpc, ← he]

/-- If it will not, the state before the cycle stands for the registers and the memory it leaves. -/
theorem architecturalState_of_next_ok {w : MemWb} {dmem : Memory}
    (h : memoryStage t.cfg t.exmem t.dmem = .ok (w, dmem)) :
    architecturalState s = .running ⟨issuePc s, writebackStage w (xAfterWb t), dmem⟩ := by
  rw [architecturalState_of_ok hc.memory, ← xAfterWb_next hc]
  cases hl : s.idex.live
  case false =>
    have hn : t.exmem.live = false := by rw [hc.exmem, executeStage_live, hl]
    have hsame := (completeMem_of_ok h).symm.trans (completeMem_of_not_live (x := xAfterWb t) hn)
    obtain ⟨hx, hd⟩ := Prod.mk.inj (Except.ok.inj hsame)
    rw [retireFrom_of_not_live hl, hx, hd]
  case true =>
    rw [hc.cfg, exmem_eq_executeFrom hinv hc hl] at h
    exact retireFrom_of_ok (completeMem_of_ok h)

/-- Any other word that leaves Decode is followed by the one behind it. -/
theorem issuePc_of_no_flush (hi : s.ifid.live = true) (hs : stallWire s = false) (hf : flushWire s = false) :
    issuePc t = s.ifid.pc + 4#32 := by
  obtain ⟨hifid, hpc, -⟩ := hc.fetched
  simp only [hs, hf, Bool.false_eq_true, if_false] at hifid hpc
  rw [issuePc, hifid, hpc, ← (hinv.fetchedFromProgram hi).2]
  split <;> rfl

end

/-! ### The operands Decode resolves a control-flow word with (R124, R135) -/

/-- What a hazard unit that lets a BRANCH or a JALR pass says, in a hazard-free configuration: no register it reads is
the destination of the instruction in EX, nor one that MEM supplies too late. -/
theorem no_producer_of_no_hazard {cfg : Cfg} {d : Dec} {e : IdEx} {m : ExMem} {r : RegIdx} (hfree : HazardFree cfg)
    (ho : d.opcode = 0x63#7 ∨ d.opcode = 0x67#7) (hz : hazard cfg d e m = false) (hr : d.reads r = true) :
    ¬ (e.live = true ∧ e.ctrl.writesRegister = true ∧ e.rd = r) ∧
      (matchesExMem r m = true → cfg.fwdEn = true ∧ m.ctrl.readsMemory = false) := by
  rw [matchesExMem_iff]
  rw [← Bool.not_eq_true, hazard_iff] at hz
  cases hfwd : cfg.fwdEn
  case false =>
    rw [hfwd, if_neg Bool.false_ne_true] at hz
    refine ⟨?_, ?_⟩
    · rintro ⟨hl, hw, rfl⟩
      exact hz (.inl ⟨hl, hw, hr⟩)
    · rintro ⟨-, hl, hw, rfl⟩
      exact absurd (.inr ⟨hl, hw, hr⟩) hz
  case true =>
    have hint : cfg.brInterlock = true := hfree.resolve_left (by simp [hfwd])
    rw [hfwd, if_pos rfl] at hz
    refine ⟨?_, ?_⟩
    · rintro ⟨hl, hw, rfl⟩
      exact hz (.inr ⟨hint, ho, .inl ⟨hl, hw, hr⟩⟩)
    · rintro ⟨-, hl, hw, rfl⟩
      refine ⟨rfl, ?_⟩
      rw [← Bool.not_eq_true]
      exact fun hload => hz (.inr ⟨hint, ho, .inr ⟨⟨hl, hw, hr⟩, hload⟩⟩)

section
variable {s t : State} (hinv : PipelineInvariant s) (hfree : HazardFree s.cfg)
  (hc : Commits s (decodeOut s (xAfterWb s)) t) {w : MemWb} {dmem : Memory}
  (hm : memoryStage t.cfg t.exmem t.dmem = .ok (w, dmem)) (hi : s.ifid.live = true) (hs : stallWire s = false)
include hinv hfree hc hm hi hs

/-- A register that a BRANCH or JALR leaving Decode reads has its sequential value. -/
theorem decode_operand_eq_readReg {r : RegIdx}
    (ho : (decodedIn s).opcode = 0x63#7 ∨ (decodedIn s).opcode = 0x67#7)
    (hr : r ≠ 0#5 → (decodedIn s).reads r = true) :
    operandIn s r = readReg (writebackStage w (xAfterWb t)) r := by
  have hz := stallWire_of_live hi ▸ hs
  have hpass (h0 : r ≠ 0#5) := no_producer_of_no_hazard hfree ho hz (hr h0)
  have hex : ¬ matchesExMem r t.exmem = true := by
    intro hx
    obtain ⟨h0, hl, hw, hrd⟩ := (matchesExMem_iff r _).mp hx
    obtain ⟨hl', hctrl, hrd'⟩ := executed_of_exmem_live hc hl
    exact (hpass h0).1 ⟨hl', hctrl ▸ hw, hrd' ▸ hrd⟩
  rw [readReg_after_memoryStage hm, if_neg hex, xAfterWb_next hc]
  exact operand_eq_readReg hc.memory (exmem_tuple hinv) fun hx =>
    (hpass ((matchesExMem_iff r _).mp hx).1).2 hx

/-- The redirect of a control-flow word is the sequential machine's next address. -/
theorem redirectWire_eq_seqNextPc (hcf : (decodedIn s).ctrl.isControlFlow = true) :
    redirectWire s = seqNextPc s.cfg (decodedIn s) s.ifid.pc (writebackStage w (xAfterWb t)) := by
  rw [seqNextPc, if_pos hcf, redirectWire, resolve]
  have hop {c : OpClass} (hclass : classOf s.cfg.auipcEn (decodedIn s).opcode = c) (hne : c ≠ .unknown) :
      (decodedIn s).opcode = opcodeOfClass c := (opcode_of_classOf hclass hne).1
  have hfresh {r : RegIdx} := decode_operand_eq_readReg hinv hfree hc hm hi hs (r := r)
  have hreads {r : RegIdx} := readsReg_iff (decodedIn s).opcode (decodedIn s).rs1 (decodedIn s).rs2 r
  cases hclass : classOf s.cfg.auipcEn (decodedIn s).opcode
  case branch =>
    have ho := hop hclass (by decide)
    have h1 := hfresh (.inl ho) fun h0 => hreads.mpr ⟨h0, .inl ⟨by rw [ho]; rfl, rfl⟩⟩
    have h2 := hfresh (.inl ho) fun h0 => hreads.mpr ⟨h0, .inr ⟨by rw [ho]; rfl, rfl⟩⟩
    rw [← h1, ← h2]
  case jalr =>
    have ho := hop hclass (by decide)
    have h1 := hfresh (.inr ho) fun h0 => hreads.mpr ⟨h0, .inl ⟨by rw [ho]; rfl, rfl⟩⟩
    rw [← h1]
    rfl
  all_goals rfl

/-- The instruction that leaves Decode is the one the sequential machine executes. -/
theorem seqStep_of_issue :
    seqStep s.cfg ⟨issuePc s, writebackStage w (xAfterWb t), dmem⟩ = architecturalState t := by
  have hpc : issuePc s = s.ifid.pc := if_pos hi
  have hnext : issuePc t = seqNextPc s.cfg (decodedIn s) s.ifid.pc (writebackStage w (xAfterWb t)) := by
    cases hcf : (decodedIn s).ctrl.isControlFlow
    · rw [issuePc_of_no_flush hinv hc hi hs (by simp [hcf]), seqNextPc, hcf, if_neg Bool.false_ne_true]
    · rw [issuePc_of_flush hc ((flushWire_iff s).mpr ⟨hi, hs, hcf⟩),
        redirectWire_eq_seqNextPc hinv hfree hc hm hi hs hcf]
  have hlatch : t.idex = (decodedIn s).latch s.ifid.pc := by rw [hc.idex, decodeOut_of_issue hi hs]
  rw [architecturalState_of_ok hm, hnext, hlatch, hc.cfg, hpc, seqStep, (hinv.fetchedFromProgram hi).1]
  exact (archExec_eq_retireFrom s.cfg _ _).trans (by rw [decOf_decode])

end

/-! ### The simulation step -/

theorem architecturalState_commits {s t : State} (hinv : PipelineInvariant s) (hfree : HazardFree s.cfg)
    (hc : Commits s (decodeOut s (xAfterWb s)) t) : architecturalState t =
      if s.ifid.live = true ∧ stallWire s = false then seqAdvance s.cfg (architecturalState s)
      else architecturalState s := by
  cases hm : memoryStage t.cfg t.exmem t.dmem with
  | error code =>
    obtain ⟨ht, hs⟩ := architecturalState_of_next_error hinv hc hm
    rw [ht, hs]
    split <;> rfl
  | ok wd =>
    obtain ⟨w, dmem⟩ := wd
    rw [architecturalState_of_next_ok hinv hc hm]
    split
    case isTrue hissue => exact (seqStep_of_issue hinv hfree hc hm hissue.1 hissue.2).symm
    case isFalse hno =>
      have hl : t.idex.live = false := by
        by_contra hl
        obtain ⟨hi, hs, -⟩ := issued_of_idex_live hc (by simpa using hl)
        exact hno ⟨hi, hs⟩
      rw [architecturalState_of_ok hm, retireFrom_of_not_live hl, issuePc_of_no_issue hc hno]

/-- A misaligned fetch is the sequential machine's next step: nothing in the pipeline can still raise a data error, and
nothing is in Decode. -/
theorem seqAdvance_of_misaligned_fetch {s : State} (hinv : PipelineInvariant s) {w : MemWb} {dmem : Memory}
    (hm : memoryStage s.cfg s.exmem s.dmem = .ok (w, dmem)) (hf : ifetch s.cfg s.pc = .misaligned) :
    seqAdvance s.cfg (architecturalState s) = .fatal .misalignedFetch s.pc s.pc := by
  obtain ⟨hi, hquiet⟩ := hinv.faultingFetchIsYoungest hf
  have hpc : issuePc s = s.pc := by rw [issuePc, hi, if_neg Bool.false_ne_true]
  obtain ⟨x', dmem', hrun⟩ : ∃ x' dmem', architecturalState s = .running ⟨issuePc s, x', dmem'⟩ := by
    rw [architecturalState_of_ok hm]
    cases hl : s.idex.live
    · exact ⟨_, _, retireFrom_of_not_live hl⟩
    · obtain ⟨hr, hw⟩ := hquiet hl
      refine ⟨_, _, retireFrom_of_ok (completeMem_of_ok (memoryStage_of_live ?_ ?_ _))⟩
      · rw [executeFrom_of_live hl]; rfl
      · rw [executeFrom_of_live hl]
        rintro (h | h)
        · exact absurd (hr.symm.trans h) Bool.false_ne_true
        · exact absurd (hw.symm.trans h) Bool.false_ne_true
  rw [hrun, seqAdvance, seqStep, hpc, hf]

end Sys2Proof.Safety

namespace Sys2Proof.Claims

open Sys2Proof.Machine Sys2Proof.Safety

/-- Settles O48: a cycle that commits advances the sequential state by the instruction that leaves Decode, a data error
is the error the state stands for, and a misaligned fetch is its next step. -/
theorem pipelineRefinesSequential : Obligations.PipelineRefinesSequential := by
  intro s t hinv hfree hstep
  refine ⟨fun hh => architecturalState_commits hinv hfree (commits_of_step hstep hh), fun r hh => ?_⟩
  obtain ⟨code, hm, rfl, -⟩ | ⟨w, dmem, hm, hf, rfl, -⟩ := step_halts hstep hh
  · exact ⟨fun _ => architecturalState_of_error hm, fun hcode => absurd hcode (memoryStage_error_ne_misalignedFetch hm)⟩
  · exact ⟨fun hcode => absurd rfl hcode,
      fun _ => seqAdvance_of_misaligned_fetch hinv hm ((step_fetch_eq_none_iff s).mp hf).2⟩

end Sys2Proof.Claims
end

section
/-! The end of a run: the run loop ends (spec/44_pipeline_latch_controller.md R118, R119), a drained state stays drained,
and whole runs agree with the sequential machine (spec/70_reset_and_hazards.md R167). -/

namespace Sys2Proof.Machine

open Sys2Proof.Claims

/-! ### The run loop -/

theorem goesOn_iff (s : State) : goesOn s = true ↔
    s.halted = none ∧ s.cycle < s.cfg.cycleLimit ∧ drained s = false := by
  simp [goesOn, and_assoc]

theorem runLoop_of_stop {s : State} (h : goesOn s = false) (k : Nat) : runLoop k s = s := by
  cases k <;> simp [runLoop, h]

theorem runLoop_of_step {s t : State} (h : goesOn s = true) (hs : step s = .next t) (k : Nat) :
    runLoop (k + 1) s = runLoop k t := by
  simp [runLoop, h, hs]

/-- While the loop goes on there is a next state. -/
theorem step_next_of_goesOn {s : State} (h : goesOn s = true) : ∃ t, step s = .next t := by
  rw [step_eq_cycleWith]
  exact cycleWith_next ((goesOn_iff s).mp h).1 _

/-- What every step keeps holds at the end of the loop. -/
theorem runLoop_induction {P : State → Prop} (hstep : ∀ s t, P s → step s = .next t → P t) :
    ∀ (k : Nat) (s : State), P s → P (runLoop k s)
  | 0, _, h => h
  | k + 1, s, h => by
    cases hg : goesOn s
    · rwa [runLoop_of_stop hg]
    · obtain ⟨t, hs⟩ := step_next_of_goesOn hg
      rw [runLoop_of_step hg hs]
      exact runLoop_induction hstep k t (hstep s t h hs)

theorem runToEnd_cfg (s : State) : (runToEnd s).cfg = s.cfg :=
  runLoop_induction (P := fun t => t.cfg = s.cfg) (fun _ _ hcfg h => (step_cfg h).trans hcfg) _ s rfl

/-- The loop ends within the cycles that are left below the limit: each step that does not halt counts one. -/
theorem runLoop_ends : ∀ (k : Nat) (s : State), (s.halted = none → s.cfg.cycleLimit ≤ s.cycle + k) →
    goesOn (runLoop k s) = false
  | 0, s, hk => by
    rw [← Bool.not_eq_true, runLoop, goesOn_iff]
    rintro ⟨hr, hlt, -⟩
    exact absurd (hk hr) (by omega)
  | k + 1, s, hk => by
    cases hg : goesOn s
    case false => rwa [runLoop_of_stop hg]
    case true =>
      obtain ⟨t, hs⟩ := step_next_of_goesOn hg
      rw [runLoop_of_step hg hs]
      refine runLoop_ends k t fun hh => ?_
      have hlimit := hk ((goesOn_iff s).mp hg).1
      rw [step_cfg hs, (commits_of_step hs hh).cycle]
      omega

theorem runToEnd_ends (s : State) : goesOn (runToEnd s) = false :=
  runLoop_ends _ s fun _ => Nat.le_add_left ..

/-! ### The outcome -/

theorem runOutcome_eq_drained_iff (s : State) : runOutcome s = .drained ↔ drained s = true ∧ s.halted = none := by
  unfold runOutcome
  cases s.halted <;> cases drained s <;> simp

theorem runOutcome_eq_limit_iff (s : State) : runOutcome s = .limit ↔ drained s = false ∧ s.halted = none := by
  unfold runOutcome
  cases s.halted <;> cases drained s <;> simp

theorem runOutcome_eq_halted_iff (s : State) (r : FatalRecord) : runOutcome s = .halted r ↔ s.halted = some r := by
  unfold runOutcome
  cases s.halted <;> cases drained s <;> simp

/-! ### A drained state (R118) -/

theorem drained_iff (s : State) : drained s = true ↔
    s.ifid.valid = false ∧ s.idex.valid = false ∧ s.exmem.valid = false ∧ s.memwb.valid = false ∧
      inBounds s.cfg s.pc = false := by
  simp [drained, and_assoc]

theorem ifid_not_live_of_invalid {l : IfId} (h : l.valid = false) : l.live = false := by simp [IfId.live, h]
theorem idex_not_live_of_invalid {l : IdEx} (h : l.valid = false) : l.live = false := by simp [IdEx.live, h]
theorem exmem_not_live_of_invalid {l : ExMem} (h : l.valid = false) : l.live = false := by simp [ExMem.live, h]
theorem memwb_not_live_of_invalid {l : MemWb} (h : l.valid = false) : l.live = false := by simp [MemWb.live, h]

theorem ifetch_of_out_of_bounds {cfg : Cfg} {a : Word} (h : inBounds cfg a = false) : ifetch cfg a = .outside := by
  simp [ifetch, h]

/-- Decode and Fetch of a cycle with nothing to decode and nothing to fetch. -/
theorem exhausted_fetch {s : State} (hi : s.ifid.valid = false) (hb : inBounds s.cfg s.pc = false) (x : RegFile) :
    decodeOut s x = ⟨IdEx.invalid, false, false, 0#32⟩ ∧
      fetchStage s (decodeOut s x) = some (IfId.invalid, s.pc) := by
  have hd : decodeOut s x = ⟨IdEx.invalid, false, false, 0#32⟩ := by
    rw [decodeOut_of_not_live (ifid_not_live_of_invalid hi), decodeIdle_eq, hi, if_neg Bool.false_ne_true]
  refine ⟨hd, ?_⟩
  simp [hd, fetchStage, ifetch_of_out_of_bounds hb, nextPc, hb]

/-- A cycle with nothing to decode and nothing to fetch: the older instructions go on, `pc` holds (R140). -/
theorem step_of_exhausted {s : State} {w : MemWb} {dmem : Memory} (hr : s.halted = none) (hi : s.ifid.valid = false)
    (hb : inBounds s.cfg s.pc = false) (hm : memoryStage s.cfg s.exmem s.dmem = .ok (w, dmem)) :
    step s = .next (commitCycle s s.pc (xAfterWb s) dmem IfId.invalid IdEx.invalid
      (executeStage s.cfg s.idex s.exmem s.memwb (xAfterWb s)) w) := by
  obtain ⟨hd, hf⟩ := exhausted_fetch hi hb (xAfterWb s)
  rw [step_eq_cycleWith, cycleWith_of_ok hr hm, finishCycle_of_some hf, hd]

/-- A cycle in which all four latches are invalid and the fetch is out of bounds: every latch is `INVALID` again. -/
theorem step_of_drained {s : State} (hr : s.halted = none) (hd : drained s = true) :
    step s = .next (commitCycle s s.pc s.x s.dmem IfId.invalid IdEx.invalid ExMem.invalid MemWb.invalid) := by
  obtain ⟨hi, he, hm, hw, hb⟩ := (drained_iff s).mp hd
  rw [step_of_exhausted hr hi hb (memoryStage_of_not_live (exmem_not_live_of_invalid hm) _), xAfterWb,
    writebackStage_of_not_live (memwb_not_live_of_invalid hw),
    executeStage_of_not_live (idex_not_live_of_invalid he), he, hm]
  rfl

end Sys2Proof.Machine

namespace Sys2Proof.Safety

open Sys2Proof.Machine Sys2Proof.Claims

/-! ### The sequential machine -/

/-- A state with nothing in EX, MEM and WB stands for its own registers and memory. -/
theorem architecturalState_of_empty {s : State} (he : s.idex.live = false) (hm : s.exmem.live = false)
    (hw : s.memwb.live = false) : architecturalState s = .running ⟨issuePc s, s.x, s.dmem⟩ := by
  rw [architecturalState_of_ok (memoryStage_of_not_live hm _), retireFrom_of_not_live he, xAfterWb,
    writebackStage_of_not_live hw, writebackStage_of_not_live (by split <;> rfl)]

theorem architecturalState_of_drained {s : State} (h : drained s = true) :
    architecturalState s = .running ⟨s.pc, s.x, s.dmem⟩ := by
  obtain ⟨hi, he, hm, hw, -⟩ := (drained_iff s).mp h
  rw [architecturalState_of_empty (idex_not_live_of_invalid he) (exmem_not_live_of_invalid hm)
    (memwb_not_live_of_invalid hw), issuePc, ifid_not_live_of_invalid hi, if_neg Bool.false_ne_true]

theorem seqAdvance_of_drained {s : State} (h : drained s = true) :
    seqAdvance s.cfg (architecturalState s) = .stopped ⟨s.pc, s.x, s.dmem⟩ := by
  obtain ⟨-, -, -, -, hb⟩ := (drained_iff s).mp h
  rw [architecturalState_of_drained h, seqAdvance, seqStep, ifetch_of_out_of_bounds hb]

/-- One step more of a sequential run is one step of its outcome. -/
theorem seqRun_succ (cfg : Cfg) : ∀ (k : Nat) (a : ArchState),
    seqRun cfg (k + 1) a = seqAdvance cfg (seqRun cfg k a)
  | 0, a => by
    rw [seqRun]
    cases h : seqStep cfg a <;> simp [seqRun, seqAdvance, h]
  | k + 1, a => by
    rw [seqRun, seqRun.eq_2 cfg a k]
    cases seqStep cfg a with
    | running a' => exact seqRun_succ cfg k a'
    | stopped a' => rfl
    | fatal code p addr => rfl

/-! ### Whole runs -/

/-- `s` is reached by a run that the sequential machine from `a` has followed: it stands for an outcome of that machine,
and its halt record is that machine's error. -/
structure Follows (cfg : Cfg) (a : ArchState) (s : State) : Prop where
  sameCfg : s.cfg = cfg
  running : s.halted = none → PipelineInvariant s ∧ ∃ k, seqRun cfg k a = architecturalState s
  halted : ∀ r, s.halted = some r → ∃ k, seqRun cfg k a = .fatal r.code r.pc r.addr

theorem follows_resetWith (cfg : Cfg) : Follows cfg (seqReset cfg) (State.resetWith cfg) where
  sameCfg := rfl
  running := fun _ => ⟨pipelineInvariant_resetWith cfg, 0,
    (architecturalState_of_empty (s := State.resetWith cfg) rfl rfl rfl).symm⟩
  halted := fun _ h => nomatch h

/-- The sequential machine follows every step of a hazard-free configuration. -/
theorem follows_step {cfg : Cfg} (hfree : HazardFree cfg) {a : ArchState} {s t : State} (h : Follows cfg a s)
    (hstep : step s = .next t) : Follows cfg a t := by
  obtain ⟨rfl, hrun, -⟩ := h
  have hr : s.halted = none := (cycleWith_cases (step_eq_cycleWith s ▸ hstep)).1
  obtain ⟨hinv, k, hk⟩ := hrun hr
  obtain ⟨hcommit, hhalt⟩ := pipelineRefinesSequential s t hinv hfree hstep
  refine ⟨step_cfg hstep, fun hh => ⟨pipelineInvariant_step hinv hstep, ?_⟩, fun r hh => ?_⟩
  · rw [hcommit hh, ← hk]
    split
    · exact ⟨k + 1, seqRun_succ ..⟩
    · exact ⟨k, rfl⟩
  · obtain ⟨hdata, hfetch⟩ := hhalt r hh
    by_cases hcode : r.code = .misalignedFetch
    · exact ⟨k + 1, by rw [seqRun_succ, hk, hfetch hcode]⟩
    · exact ⟨k, by rw [hk, hdata hcode]⟩

theorem follows_runToEnd {cfg : Cfg} (hfree : HazardFree cfg) :
    Follows cfg (seqReset cfg) (runToEnd (State.resetWith cfg)) :=
  runLoop_induction (fun _ _ h hstep => follows_step hfree h hstep) _ _ (follows_resetWith cfg)

end Sys2Proof.Safety

namespace Sys2Proof.Claims

open Sys2Proof.Machine Sys2Proof.Safety

/-- Settles O44: the canonical value of a latch that is not valid is `INVALID`, which the step writes again. -/
theorem drainedStaysDrained : Obligations.DrainedStaysDrained := by
  intro s hr hd hcanon
  obtain ⟨hifid, hidex, hexmem, hmemwb⟩ := hcanon
  obtain ⟨hi, he, hm, hw, -⟩ := (drained_iff s).mp hd
  have h1 := hifid hi
  have h2 : s.idex = IdEx.invalid := (hidex (idex_not_live_of_invalid he)).resolve_right fun h => by
    rw [h] at he; cases he
  have h3 : s.exmem = ExMem.invalid := (hexmem (exmem_not_live_of_invalid hm)).resolve_right fun h => by
    rw [h] at hm; cases hm
  have h4 : s.memwb = MemWb.invalid := (hmemwb (memwb_not_live_of_invalid hw)).resolve_right fun h => by
    rw [h] at hw; cases hw
  refine ⟨?_, hd⟩
  rw [step_of_drained hr hd, ← h1, ← h2, ← h3, ← h4]
  rfl

/-- Settles O45: the loop has as many cycles as the limit allows, and each one counts. -/
theorem runEnds : Obligations.RunEnds := by
  intro s
  have hend := runToEnd_ends s
  refine ⟨hend, fun h => ?_, fun h => (runOutcome_eq_drained_iff _).mp h⟩
  obtain ⟨hd, hr⟩ := (runOutcome_eq_limit_iff _).mp h
  rw [← Bool.not_eq_true, goesOn_iff, runToEnd_cfg] at hend
  by_contra hlt
  exact hend ⟨hr, by omega, hd⟩

/-- Settles O49: nothing is left to complete, and the fetch at `pc` is out of bounds. -/
theorem drainedStateIsFinalSequentialState : Obligations.DrainedStateIsFinalSequentialState :=
  fun _ h => ⟨architecturalState_of_drained h, seqAdvance_of_drained h⟩

/-- Settles O50: the sequential machine follows the run to its end; a drained end stops it, a halted one is its error. -/
theorem wholeRunsAgree : Obligations.WholeRunsAgree := by
  intro cfg hfree
  obtain ⟨hcfg, hrunning, hhalted⟩ := follows_runToEnd hfree
  refine ⟨fun h => ?_, fun r h => hhalted r ((runOutcome_eq_halted_iff _ r).mp h)⟩
  obtain ⟨hd, hr⟩ := (runOutcome_eq_drained_iff _).mp h
  obtain ⟨-, k, hk⟩ := hrunning hr
  have hstop := seqAdvance_of_drained hd
  rw [hcfg, ← hk, ← seqRun_succ] at hstop
  exact ⟨k + 1, hstop⟩

end Sys2Proof.Claims
end

section
/-! Fetch and data memory: the checks of an access, what a word reads after a write (spec/20_memory.md R37 to R52), and
the words of a memory made from a list (spec/70_reset_and_hazards.md R162). -/

namespace Sys2Proof.Machine

/-! ### The checks (R38, R44, R45) -/

/-- Both accesses fail with the code of the check. -/
theorem access_of_error {cfg : Cfg} {ea : Word} {code : FatalCode} (h : accessError cfg ea = some code) (m : Memory)
    (v : Word) : memRead cfg m ea = .error code ∧ memWrite cfg m ea v = .error code := by
  simp [memRead, memWrite, h]

/-- Both accesses are to the whole word at the index. -/
theorem access_of_good {cfg : Cfg} {ea : Word} (h : accessError cfg ea = none) (m : Memory) (v : Word) :
    memRead cfg m ea = .ok (readWord m (wordIndex cfg ea)) ∧
      memWrite cfg m ea v = .ok (writeWord m (wordIndex cfg ea) v) := by
  simp [memRead, memWrite, h]

theorem accessError_of_misaligned {cfg : Cfg} {ea : Word} (hmode : cfg.dmemAddrMode = .byte) (h : ea.toNat % 4 ≠ 0) :
    accessError cfg ea = some .misalignedData :=
  if_pos ⟨hmode, (misaligned_iff ea).mpr h⟩

theorem accessError_of_out_of_bounds {cfg : Cfg} {ea : Word} (ha : cfg.dmemAddrMode = .byte → ea.toNat % 4 = 0)
    (h : cfg.dmemWords ≤ wordIndex cfg ea) : accessError cfg ea = some .dataOutOfBounds := by
  rw [accessError, if_neg fun hmis => (misaligned_iff ea).mp hmis.2 (ha hmis.1), if_pos h]

theorem accessError_of_good {cfg : Cfg} {ea : Word} (ha : cfg.dmemAddrMode = .byte → ea.toNat % 4 = 0)
    (h : wordIndex cfg ea < cfg.dmemWords) : accessError cfg ea = none := by
  rw [accessError, if_neg fun hmis => (misaligned_iff ea).mp hmis.2 (ha hmis.1), if_neg (by omega)]

/-! ### Bytes and words (R45, R47, R52) -/

/-- A word written leaves every byte outside its four alone. -/
theorem readByte_writeWord_outside (m : Memory) (i : Nat) (v : Word) {a : Nat} (h : a < 4 * i ∨ 4 * i + 4 ≤ a) :
    readByte (writeWord m i v) a = readByte m a := by
  unfold writeWord
  rw [readByte_writeByte_other _ _ _ _ (by omega), readByte_writeByte_other _ _ _ _ (by omega),
    readByte_writeByte_other _ _ _ _ (by omega), readByte_writeByte_other _ _ _ _ (by omega)]

/-- The four bytes of a word, put together again. -/
theorem word_of_bytes (v : Word) :
    v.extractLsb' 24 8 ++ v.extractLsb' 16 8 ++ v.extractLsb' 8 8 ++ v.extractLsb' 0 8 = v := by
  apply BitVec.eq_of_getLsbD_eq
  intro k hk
  simp only [BitVec.getLsbD_extractLsb', BitVec.getLsbD_append]
  grind

/-- A memory whose four bytes at a word's addresses are those of `v` reads `v` there. -/
theorem readWord_eq {m : Memory} {i : Nat} {v : Word} (h0 : readByte m (4 * i) = v.extractLsb' 0 8)
    (h1 : readByte m (4 * i + 1) = v.extractLsb' 8 8) (h2 : readByte m (4 * i + 2) = v.extractLsb' 16 8)
    (h3 : readByte m (4 * i + 3) = v.extractLsb' 24 8) : readWord m i = v := by
  rw [readWord, h0, h1, h2, h3, word_of_bytes]

/-- A word reads what was written to it: each of its bytes was written once, the other three writes left it alone. -/
theorem readWord_writeWord_same {m : Memory} (h : m.wf = true) (i : Nat) (v : Word) :
    readWord (writeWord m i v) i = v := by
  have hw0 := writeByte_wf h (4 * i) (v.extractLsb' 0 8)
  have hw1 := writeByte_wf hw0 (4 * i + 1) (v.extractLsb' 8 8)
  have hw2 := writeByte_wf hw1 (4 * i + 2) (v.extractLsb' 16 8)
  unfold writeWord
  apply readWord_eq
  · rw [readByte_writeByte_other _ _ _ _ (by omega), readByte_writeByte_other _ _ _ _ (by omega),
      readByte_writeByte_other _ _ _ _ (by omega), readByte_writeByte_same h]
  · rw [readByte_writeByte_other _ _ _ _ (by omega), readByte_writeByte_other _ _ _ _ (by omega),
      readByte_writeByte_same hw0]
  · rw [readByte_writeByte_other _ _ _ _ (by omega), readByte_writeByte_same hw1]
  · rw [readByte_writeByte_same hw2]

theorem readWord_writeWord_other (m : Memory) {i j : Nat} (v : Word) (h : j ≠ i) :
    readWord (writeWord m i v) j = readWord m j := by
  unfold readWord
  rw [readByte_writeWord_outside _ _ _ (by omega), readByte_writeWord_outside _ _ _ (by omega),
    readByte_writeWord_outside _ _ _ (by omega), readByte_writeWord_outside _ _ _ (by omega)]

/-! ### A memory made from a list of words (R162) -/

theorem readByte_ofBytes : ∀ (bs : List Byte) (a k : Nat), readByte (Memory.ofBytes a bs) (a + k) = bs.getD k 0#8
  | [], _, _ => rfl
  | b :: rest, a, 0 => by
    rw [Memory.ofBytes]
    split
    case isTrue hb =>
      subst hb
      exact readByte_below _ (a + 1) _ (ofBytes_wfFrom rest (a + 1)) (by omega)
    case isFalse hb => simp [readByte]
  | b :: rest, a, k + 1 => by
    have ih := readByte_ofBytes rest (a + 1) k
    rw [show a + 1 + k = a + (k + 1) by omega] at ih
    rw [Memory.ofBytes, List.getD_cons_succ, ← ih]
    split
    · rfl
    · have hne : a ≠ a + (k + 1) := by omega
      rw [readByte, if_neg hne]

/-- Byte `j` of word `i` lies `4*i + j` bytes from the start. -/
theorem getD_flatMap_wordBytes : ∀ (ws : List Word) (i : Nat) {j : Nat}, j < 4 →
    (ws.flatMap wordBytes).getD (4 * i + j) 0#8 = (ws.getD i 0#32).extractLsb' (8 * j) 8
  | [], i, j, _ => by simp
  | w :: rest, 0, j, hj => by
    rw [List.flatMap_cons, Nat.mul_zero, Nat.zero_add, List.getD_append _ _ _ _ (by simpa [wordBytes] using hj)]
    obtain rfl | rfl | rfl | rfl : j = 0 ∨ j = 1 ∨ j = 2 ∨ j = 3 := by omega
    all_goals rfl
  | w :: rest, i + 1, j, hj => by
    have hlen : (wordBytes w).length = 4 := rfl
    rw [List.flatMap_cons, List.getD_append_right _ _ _ _ (by omega), hlen,
      show 4 * (i + 1) + j - 4 = 4 * i + j by omega, getD_flatMap_wordBytes rest i hj, List.getD_cons_succ]

/-- Word `i` of a memory made from a list is the `i`-th word of the list. -/
theorem readWord_ofBytes (ws : List Word) (i : Nat) :
    readWord (Memory.ofBytes 0 (ws.flatMap wordBytes)) i = ws.getD i 0#32 := by
  have hbyte {j : Nat} (hj : j < 4) : readByte (Memory.ofBytes 0 (ws.flatMap wordBytes)) (4 * i + j) =
      (ws.getD i 0#32).extractLsb' (8 * j) 8 := by
    rw [← getD_flatMap_wordBytes ws i hj, ← readByte_ofBytes, Nat.zero_add]
  exact readWord_eq (hbyte (j := 0) (by omega)) (hbyte (j := 1) (by omega)) (hbyte (j := 2) (by omega))
    (hbyte (j := 3) (by omega))

end Sys2Proof.Machine

namespace Sys2Proof.Claims

open Sys2Proof.Machine

/-- Settles O27: the three answers of a fetch. -/
theorem fetchPrimitive : Obligations.FetchPrimitive := by
  intro cfg a
  refine ⟨fun hb ha => ?_, fun hb => ?_, fun hb ha => (ifetch_eq_misaligned_iff cfg a).mpr ⟨hb, ha⟩⟩
  · have hlt : a.toNat / 4 < cfg.imem.length := by omega
    refine ⟨hlt, ?_⟩
    have hword : imemWord cfg a = cfg.imem[a.toNat / 4] := List.getD_eq_getElem _ _ hlt
    rw [ifetch, if_pos ((inBounds_iff cfg a).mpr hb), if_neg fun hm => (misaligned_iff a).mp hm ha, hword]
  · exact ifetch_of_out_of_bounds (by rw [← Bool.not_eq_true, inBounds_iff]; exact hb)

/-- Settles O28: the answers of the access check, for both accesses alike. -/
theorem dataAccessChecks : Obligations.DataAccessChecks := by
  intro cfg m ea v idx
  have hidx : idx = wordIndex cfg ea := by
    unfold wordIndex
    rfl
  rw [hidx]
  exact ⟨fun hmode hmis => access_of_error (accessError_of_misaligned hmode hmis) m v,
    fun ha hout => access_of_error (accessError_of_out_of_bounds ha hout) m v,
    fun ha hin => access_of_good (accessError_of_good ha hin) m v⟩

/-- Settles O29: the written word byte by byte, and what a write leaves alone. -/
theorem loadSeesLatestStore : Obligations.LoadSeesLatestStore := fun m i v h =>
  ⟨writeWord_wf h i v, readWord_writeWord_same h i v, fun _ hj => readWord_writeWord_other m v hj,
    fun _ ha => readByte_writeWord_outside m i v ha⟩

/-- Settles O42: the words of `DMEM_INIT` lie where the byte list puts them; the other elements are as written. -/
theorem resetValues : Obligations.ResetValues := by
  refine ⟨fun cfg => ⟨rfl, rfl, rfl, rfl, rfl, ?_, fun k hk h0 => ?_, fun i hi => ?_, rfl, rfl, rfl⟩, fun s => rfl, rfl,
    fun r => ?_, fun i => ?_⟩
  · simp [State.resetWith]
  · simp [State.resetWith, Ne.symm h0]
  · rw [State.resetWith, readWord_ofBytes]
    simp [List.getD_eq_getElem?_getD, hi]
  · revert r
    decide
  · exact readWord_ofBytes [] i

end Sys2Proof.Claims
end

section
/-! An instruction alone in the pipeline completes as its architectural effect says: one theorem for all sixteen
instructions, from which the completion statements of each class follow (spec/70_reset_and_hazards.md R167). -/

namespace Sys2Proof.Claims

open Sys2Proof.Machine Sys2Proof.Safety

/-! ### What the architectural effect says of the Memory stage -/

section
variable {cfg : Cfg} {e : IdEx} {next : Word} {x : RegFile} {dmem : Memory}

theorem memoryStage_of_retireFrom_running {a : ArchState} (h : retireFrom cfg e next x dmem = .running a) :
    ∃ w, memoryStage cfg (executeFrom cfg e x) dmem = .ok (w, a.dmem) ∧ a.pc = next ∧ a.x = writebackStage w x := by
  cases hm : memoryStage cfg (executeFrom cfg e x) dmem with
  | error code =>
    rw [retireFrom_of_error (completeMem_of_error hm)] at h
    cases h
  | ok wd =>
    obtain ⟨w, dmem'⟩ := wd
    rw [retireFrom_of_ok (completeMem_of_ok hm)] at h
    cases h
    exact ⟨w, rfl, rfl, rfl⟩

theorem memoryStage_of_retireFrom_fatal {code : FatalCode} {p ea : Word}
    (h : retireFrom cfg e next x dmem = .fatal code p ea) :
    memoryStage cfg (executeFrom cfg e x) dmem = .error code ∧ (executeFrom cfg e x).aluResult = ea := by
  cases hm : memoryStage cfg (executeFrom cfg e x) dmem with
  | error code' =>
    rw [retireFrom_of_error (completeMem_of_error hm)] at h
    cases h
    exact ⟨rfl, rfl⟩
  | ok wd =>
    rw [retireFrom_of_ok (completeMem_of_ok (w := wd.1) (dmem' := wd.2) hm)] at h
    cases h

end

/-! ### The four cycles of an instruction that is alone -/

/-- The state in which the instruction with decode record `d` has just left Decode for Execute, with nothing around
it. -/
structure InExecute (s : State) (d : Dec) (t : State) : Prop where
  ifid : t.ifid = IfId.invalid
  idex : t.idex = d.latch s.ifid.pc
  exmem : t.exmem.live = false
  memwb : t.memwb.live = false
  pc : t.pc = seqNextPc s.cfg d s.ifid.pc s.x
  x : t.x = s.x
  dmem : t.dmem = s.dmem
  halted : t.halted = none
  cfg : t.cfg = s.cfg
  cycle : t.cycle = s.cycle + 1

section
variable {s : State} (ha : Alone s)
include ha

/-- The decode cycle: nothing stalls, Decode reads the registers, and Fetch finds the program's end. -/
theorem exec_of_alone (i : Instr) :
    ∃ t, exec i s = .next t ∧ InExecute s (decOf s.cfg.auipcEn i) t := by
  obtain ⟨hr, he, hm, hw, hpc, hend⟩ := ha
  set d := decOf s.cfg.auipcEn i
  have hb : inBounds s.cfg s.pc = false := by rw [← Bool.not_eq_true, inBounds_iff]; exact hend
  have hx : xAfterWb s = s.x := writebackStage_of_not_live hw _
  have hd := decodeLive_of_no_hazard (hazard_of_empty he hm s.cfg d) (xAfterWb s)
  have hf : fetchStage s (decodeLive s d (xAfterWb s)) =
      some (IfId.invalid, seqNextPc s.cfg d s.ifid.pc s.x) := by
    rw [hd, fetchStage, ifetch_of_out_of_bounds hb, hx]
    simp only [nextPc, hb, seqNextPc, resolve, operand_of_empty hm hw, ← hpc]
    cases d.ctrl.isControlFlow <;> rfl
  obtain ⟨t, hexec, hc, hi, hp⟩ := cycleWith_commits (o := decodeLive s d) hr
    (fun hl => absurd (hm.symm.trans hl) Bool.false_ne_true) hf
  refine ⟨t, exec_eq_issue i s ▸ hexec, hi, ?_, ?_, ?_, hp, hc.x.trans hx, ?_, hc.halted, hc.cfg, hc.cycle⟩
  · rw [hc.idex, hd]
  · rw [hc.exmem, executeStage_live, he]
  · rw [(memoryStage_ok_live hc.memory).1, hm]
  · obtain ⟨-, -, h⟩ | ⟨hl, -⟩ := memoryStage_ok_cases hc.memory
    · exact h
    · exact absurd (hm.symm.trans hl) Bool.false_ne_true

end

/-- The state `n` cycles after `s`, with what was alone in Decode at `s` now in MEM or WB and nothing behind it. -/
def draining (s : State) (n : Nat) (pc : Word) (x : RegFile) (dmem : Memory) (m : ExMem) (w : MemWb) : State :=
  { s with
    pc := pc, x := x, dmem := dmem, ifid := IfId.invalid, idex := IdEx.invalid, exmem := m, memwb := w,
    cycle := s.cycle + n }

theorem retired_eq_draining (s : State) (pc : Word) (x : RegFile) (dmem : Memory) :
    retired s pc x dmem = draining s 4 pc x dmem ExMem.invalid MemWb.invalid := rfl

section
variable {s : State} {n : Nat} {pc : Word} {x : RegFile} {dmem : Memory} {m : ExMem} {w : MemWb}

/-- A draining cycle: Writeback and Memory act, nothing follows, `pc` holds past the program's end. -/
theorem step_draining {w' : MemWb} {dmem' : Memory} (hr : s.halted = none) (hend : ¬ Fetchable s.cfg pc)
    (hm : memoryStage s.cfg m dmem = .ok (w', dmem')) : step (draining s n pc x dmem m w) =
      .next (draining s (n + 1) pc (writebackStage w x) dmem' ExMem.invalid w') := by
  have hb : inBounds s.cfg pc = false := by rw [← Bool.not_eq_true, inBounds_iff]; exact hend
  exact step_of_exhausted (s := draining s n pc x dmem m w) hr rfl hb hm

theorem step_draining_error {code : FatalCode} (hr : s.halted = none)
    (hm : memoryStage s.cfg m dmem = .error code) : step (draining s n pc x dmem m w) =
      .next (raiseFatal (draining s n pc x dmem m w) (writebackStage w x) dmem code m.pc m.aluResult) := by
  rw [step_eq_cycleWith]
  exact cycleWith_of_error (s := draining s n pc x dmem m w) hr hm _

/-- The Execute cycle: with nothing ahead, the operands are the registers. -/
theorem step_of_inExecute {t : State} {d : Dec} (hr : s.halted = none) (h : InExecute s d t)
    (hend : ¬ Fetchable s.cfg t.pc) : ∃ w, w.live = false ∧
      step t = .next (draining s 2 t.pc s.x s.dmem (executeFrom s.cfg (d.latch s.ifid.pc) s.x) w) := by
  have hb : inBounds t.cfg t.pc = false := by rw [← Bool.not_eq_true, inBounds_iff, h.cfg]; exact hend
  have hx : xAfterWb t = s.x := (writebackStage_of_not_live h.memwb _).trans h.x
  have hv : t.ifid.valid = false := by rw [h.ifid]; rfl
  refine ⟨if t.exmem.valid then MemWb.bubbleAt t.exmem.pc else MemWb.invalid, by split <;> rfl, ?_⟩
  rw [step_of_exhausted h.halted hv hb (memoryStage_of_not_live h.exmem _), hx, h.idex, h.cfg, h.dmem,
    executeStage_of_live rfl, executeFrom_of_live rfl]
  simp only [operand_of_empty h.exmem h.memwb, commitCycle, draining, h.halted, hr, h.cfg, h.cycle]

end

section
variable {i : Instr} {s : State} (ha : Alone s)
include ha

/-- An instruction alone in the pipeline, whose next address lies past the program's end, completes as the sequential
machine executes it. -/
theorem retiresAs_of_archExec {pc : Word} {x : RegFile} {dmem : Memory} (hend : ¬ Fetchable s.cfg pc)
    (h : archExec s.cfg i ⟨s.ifid.pc, s.x, s.dmem⟩ = .running ⟨pc, x, dmem⟩) : RetiresAs i s pc x dmem := by
  have hr := ha.1
  rw [archExec_eq_retireFrom] at h
  obtain ⟨w, hm, hpc, hx⟩ := memoryStage_of_retireFrom_running h
  obtain ⟨t, hexec, ht⟩ := exec_of_alone ha i
  have htpc : t.pc = pc := ht.pc.trans hpc.symm
  obtain ⟨w', hw', hexecute⟩ := step_of_inExecute hr ht (htpc ▸ hend)
  refine ⟨t, hexec, ?_⟩
  simp only [runCycles, hexecute, htpc, step_draining hr hend hm, writebackStage_of_not_live hw',
    step_draining hr hend (memoryStage_of_not_live exmem_invalid_live dmem), ← hx, retired_eq_draining]
  rfl

/-- One that goes on behind itself: the program's end is there. -/
theorem retiresAs_of_archExec_behind {x : RegFile} {dmem : Memory}
    (h : archExec s.cfg i ⟨s.ifid.pc, s.x, s.dmem⟩ = .running ⟨s.ifid.pc + 4#32, x, dmem⟩) :
    RetiresAs i s (s.ifid.pc + 4#32) x dmem := by
  have ⟨_, _, _, _, hpc, hend⟩ := ha
  exact retiresAs_of_archExec ha (hpc ▸ hend) h

/-- An instruction alone in the pipeline whose access the sequential machine refuses halts when it is in MEM. -/
theorem haltsInMemory_of_archExec {code : FatalCode} {p ea : Word}
    (hcf : (decOf s.cfg.auipcEn i).ctrl.isControlFlow = false)
    (h : archExec s.cfg i ⟨s.ifid.pc, s.x, s.dmem⟩ = .fatal code p ea) : HaltsInMemory i s code ea := by
  have ⟨hr, _, _, _, hpc, hend⟩ := ha
  rw [archExec_eq_retireFrom] at h
  obtain ⟨hm, rfl⟩ := memoryStage_of_retireFrom_fatal h
  obtain ⟨t, hexec, ht⟩ := exec_of_alone ha i
  have htpc : t.pc = s.pc := by rw [ht.pc, seqNextPc, hcf, hpc, if_neg Bool.false_ne_true]
  obtain ⟨w', hw', hexecute⟩ := step_of_inExecute hr ht (htpc ▸ hend)
  have hhalt := step_draining_error (n := 2) (pc := s.pc) (x := s.x) (w := w') hr hm
  refine ⟨t, _, hexec, by simp only [runCycles, hexecute, htpc]; rw [hhalt], ?_⟩
  rw [raiseFatal_halted, raiseFatal_x, writebackStage_of_not_live hw', executeFrom_of_live (dec_latch_live _ _)]
  exact ⟨rfl, rfl, rfl, rfl, rfl, rfl⟩

end

/-! ### The completion statements, class by class -/

theorem aluExt_of_add {cfg : Cfg} (h : cfg.aluExt = .add) (c : ExtClass) (f3 : BitVec 3) (f7 : BitVec 7) (a b : Word) :
    aluExt cfg c f3 f7 a b = a + b := by
  simp [aluExt, h]

/-- Settles O30: the effects of ADD and of the other function codes of class OP. -/
theorem opClassRetires : Obligations.OpClassRetires := by
  intro rd rs1 rs2 s ha
  refine ⟨retiresAs_of_archExec_behind ha rfl, fun f3 f7 hrow => ?_⟩
  have hext : RetiresAs (.opOther f3 f7 rd rs1 rs2) s (s.ifid.pc + 4#32)
      (writeReg s.x rd (aluExt s.cfg .op f3 f7 (readReg s.x rs1) (readReg s.x rs2))) s.dmem :=
    retiresAs_of_archExec_behind ha (by rw [archExec, archOpOther, if_neg hrow]; rfl)
  exact ⟨hext, fun hadd => by rwa [aluExt_of_add hadd] at hext⟩

/-- Settles O31: the effects of ADDI and of the other function codes of class OP-IMM. -/
theorem opImmClassRetires : Obligations.OpImmClassRetires := by
  intro rd rs1 imm s ha
  refine ⟨retiresAs_of_archExec_behind ha rfl, fun f3 hrow => ?_⟩
  have hext : RetiresAs (.opimmOther f3 rd rs1 imm) s (s.ifid.pc + 4#32)
      (writeReg s.x rd (aluExt s.cfg .opImm f3 (imm.extractLsb' 5 7) (readReg s.x rs1) (imm.signExtend 32))) s.dmem :=
    retiresAs_of_archExec_behind ha (by rw [archExec, archOpimmOther, if_neg hrow]; rfl)
  exact ⟨hext, fun hadd => by rwa [aluExt_of_add hadd] at hext⟩

/-- Settles O32: the effects of LUI and AUIPC, with the flag and without it. -/
theorem upperImmediatesRetire : Obligations.UpperImmediatesRetire := by
  intro rd imm20 s ha
  refine ⟨retiresAs_of_archExec_behind ha rfl, retiresAs_of_archExec_behind ha ?_⟩
  rw [archExec, archAuipc]
  cases s.cfg.auipcEn <;> rfl

/-- Settles O33: the effect of a load whose address passes the checks. -/
theorem loadsRetire : Obligations.LoadsRetire := by
  intro rd rs1 imm s ha ea hgood
  have hload : archLoad s.cfg ⟨s.ifid.pc, s.x, s.dmem⟩ rd ea =
      .running ⟨s.ifid.pc + 4#32, writeReg s.x rd (readWord s.dmem (wordIndex s.cfg ea)), s.dmem⟩ := by
    simp [archLoad, memRead, accessError_of_good hgood.1 hgood.2, archWrite]
  exact ⟨retiresAs_of_archExec_behind ha hload, fun f3 _ => retiresAs_of_archExec_behind ha hload⟩

/-- Settles O34: the effect of a store whose address passes the checks. -/
theorem storesRetire : Obligations.StoresRetire := by
  intro rs1 rs2 imm s ha ea idx dmem' hgood
  have hstore : archStore s.cfg ⟨s.ifid.pc, s.x, s.dmem⟩ ea (readReg s.x rs2) =
      .running ⟨s.ifid.pc + 4#32, s.x, dmem'⟩ := by
    simp [archStore, memWrite, accessError_of_good hgood.1 hgood.2, dmem', idx]
  refine ⟨retiresAs_of_archExec_behind ha hstore, fun f3 _ => retiresAs_of_archExec_behind ha hstore, fun a hout => ?_⟩
  exact readByte_writeWord_outside _ _ _ hout

/-- Settles O35: the effect of a load or store whose address fails a check is that error. -/
theorem loadsAndStoresHaltOnBadAddress : Obligations.LoadsAndStoresHaltOnBadAddress := by
  intro i rd rs1 rs2 imm f3 s ha hi ea
  have hhalt {code : FatalCode} (he : accessError s.cfg ea = some code) : HaltsInMemory i s code ea := by
    have hload : archLoad s.cfg ⟨s.ifid.pc, s.x, s.dmem⟩ rd ea = .fatal code s.ifid.pc ea := by
      simp [archLoad, memRead, he]
    have hstore : archStore s.cfg ⟨s.ifid.pc, s.x, s.dmem⟩ ea (readReg s.x rs2) = .fatal code s.ifid.pc ea := by
      simp [archStore, memWrite, he]
    rcases hi with rfl | rfl | rfl | rfl
    · exact haltsInMemory_of_archExec ha rfl hload
    · exact haltsInMemory_of_archExec ha rfl hload
    · exact haltsInMemory_of_archExec ha rfl hstore
    · exact haltsInMemory_of_archExec ha rfl hstore
  exact ⟨fun hmis => hhalt (accessError_of_misaligned hmis.1 hmis.2),
    fun halign hout => hhalt (accessError_of_out_of_bounds halign hout)⟩

/-- Settles O36: the effect of a BRANCH is its next address alone. -/
theorem branchesRetire : Obligations.BranchesRetire := by
  intro rs1 rs2 off s ha pc' hend
  have hbranch : archBranch ⟨s.ifid.pc, s.x, s.dmem⟩ rs1 rs2 (sextB off) = .running ⟨pc', s.x, s.dmem⟩ := by
    simp only [archBranch, branchTaken, wordsEqual, beq_iff_eq]
    rfl
  exact ⟨retiresAs_of_archExec ha hend hbranch, fun f3 _ => retiresAs_of_archExec ha hend hbranch⟩

/-- Settles O37: the effects of JAL and JALR are the target and the link. -/
theorem jumpsRetire : Obligations.JumpsRetire := by
  intro rd rs1 s ha
  refine ⟨?_, ?_⟩
  · intro off pc' hend
    exact retiresAs_of_archExec ha hend rfl
  · intro imm pc' hend
    exact ⟨retiresAs_of_archExec ha hend rfl, fun f3 _ => retiresAs_of_archExec ha hend rfl⟩

/-- Settles O38: an UNKNOWN word has no effect but the next address, and the three opcodes are in no class. -/
theorem unknownWordsRetire : Obligations.UnknownWordsRetire := by
  refine ⟨fun w s ha _ => retiresAs_of_archExec_behind ha rfl, fun en w ho => decode_unknown ?_⟩
  rcases ho with ho | ho | ho <;> rw [opcodeField, ho] <;> rfl

end Sys2Proof.Claims
end

section
/-! One clock cycle, stage by stage: what Writeback, Memory, Execute, Decode and Fetch leave, and the counters and
parameters (spec/44_pipeline_latch_controller.md R108 to R116). -/

namespace Sys2Proof.Machine

open Sys2Proof.Claims Sys2Proof.Safety

theorem exec_eq_cycleWith (i : Instr) (s : State) :
    exec i s = cycleWith s (decodeLive s (decOf s.cfg.auipcEn i)) := exec_eq_issue i s

/-- The data memory after a cycle, halting or not: the store of the live latch in MEM, if the cycle got that far. -/
theorem cycleWith_dmem {s t : State} {o : RegFile → DecodeOut} (h : cycleWith s o = .next t) :
    t.dmem = s.dmem ∨ (s.exmem.live = true ∧ s.exmem.ctrl.writesMemory = true ∧
      t.dmem = writeWord s.dmem (wordIndex s.cfg s.exmem.aluResult) s.exmem.storeData) := by
  have hmem : (∃ w, memoryStage s.cfg s.exmem s.dmem = .ok (w, t.dmem)) ∨ t.dmem = s.dmem := by
    obtain ⟨-, ⟨_, -, rfl⟩ | ⟨w, _, hm, ⟨-, rfl⟩ | ⟨_, _, -, rfl⟩⟩⟩ := cycleWith_cases h
    · exact .inr rfl
    · exact .inl ⟨w, hm⟩
    · exact .inl ⟨w, hm⟩
  obtain ⟨w, hm⟩ | hsame := hmem
  · obtain ⟨-, -, hd⟩ | ⟨hl, -, -, hd⟩ := memoryStage_ok_cases hm
    · exact .inl hd
    · cases hw : s.exmem.ctrl.writesMemory
      · exact .inl (by rw [hd, hw, if_neg Bool.false_ne_true])
      · exact .inr ⟨hl, rfl, by rw [hd, hw, if_pos rfl]⟩
  · exact .inl hsame

/-- The value of `cycle` plays no part in a step: with another value the step ends the same way and leaves the same
state, but for `cycle` and the record (R34). -/
theorem step_withCycle {s t : State} (n : Nat) (h : step s = .next t) :
    ∃ t', step { s with cycle := n } = .next t' ∧ t'.halted.isSome = t.halted.isSome ∧
      { t' with cycle := 0, halted := none } = { t with cycle := 0, halted := none } := by
  obtain ⟨hr, ⟨code, hm, rfl⟩ | ⟨w, dmem, hm, ⟨hf, rfl⟩ | ⟨f, p, hf, rfl⟩⟩⟩ := cycleWith_cases (step_eq_cycleWith s ▸ h)
  · exact ⟨_, (step_eq_cycleWith _).trans (cycleWith_of_error (s := { s with cycle := n }) hr hm _), rfl, rfl⟩
  · have hn := finishCycle_of_none (s := { s with cycle := n }) hf (xAfterWb s) w dmem
    exact ⟨_, (step_eq_cycleWith _).trans ((cycleWith_of_ok (s := { s with cycle := n }) hr hm _).trans
      (congrArg Host.Outcome.next hn)), rfl, rfl⟩
  · have hn := finishCycle_of_some (s := { s with cycle := n }) hf (xAfterWb s) w dmem
    exact ⟨_, (step_eq_cycleWith _).trans ((cycleWith_of_ok (s := { s with cycle := n }) hr hm _).trans
      (congrArg Host.Outcome.next hn)), rfl, rfl⟩

end Sys2Proof.Machine

namespace Sys2Proof.Claims

open Sys2Proof.Machine Sys2Proof.Safety

/-- Settles O7: `decode` is total, so the word in `IFID` always names the instruction `step` runs. -/
theorem stepRunsDecodedInstruction : Obligations.StepRunsDecodedInstruction := by
  refine ⟨fun s i hl hd _ => ?_, fun s hl => ?_⟩
  · rw [step, if_pos hl, hd]
  · rw [step, hl, if_neg Bool.false_ne_true]
    rfl

/-- Settles O8: every step and every instruction is a cycle, and a cycle answers a next state unless halted. -/
theorem everyCycleCompletesUnlessHalted : Obligations.EveryCycleCompletesUnlessHalted := by
  simp only [Obligations.EveryCycleCompletesUnlessHalted, step_eq_cycleWith, exec_eq_cycleWith]
  exact ⟨fun s h => ⟨cycleWith_next h _, fun i => cycleWith_next h _⟩,
    fun s r h => ⟨cycleWith_halted h _, fun i => cycleWith_halted h _⟩⟩

/-- Settles O9: a commit counts one cycle, a halt records the one it was in, and `cycle` feeds nothing else. -/
theorem cycleCounterAndHaltRecord : Obligations.CycleCounterAndHaltRecord := by
  refine ⟨fun cfg => ⟨rfl, rfl⟩, fun s t h => ?_, fun s t n h => step_withCycle n h⟩
  refine ⟨(cycleWith_cases (step_eq_cycleWith s ▸ h)).1, fun hh => (commits_of_step h hh).cycle, fun r hh => ?_⟩
  obtain ⟨code, -, rfl, rfl⟩ | ⟨w, dmem, -, -, rfl, rfl⟩ := step_halts h hh <;> exact ⟨rfl, rfl⟩

/-- Settles O10: no cycle changes the parameter record. -/
theorem parametersNeverChange : Obligations.ParametersNeverChange := fun s _ =>
  ⟨fun h => step_cfg h, fun i h => cycleWith_cfg (exec_eq_cycleWith i s ▸ h)⟩

/-- Settles O11: the next register file is the one Writeback leaves. -/
theorem writebackCommits : Obligations.WritebackCommits := by
  intro s t h r
  rw [step_x h, readReg_writebackStage]
  refine if_congr ?_ rfl rfl
  rw [matchesMemWb_iff]
  constructor
  · rintro ⟨h0, hl, hw, rfl⟩
    exact ⟨hl, hw, h0, rfl⟩
  · rintro ⟨hl, hw, h0, rfl⟩
    exact ⟨h0, hl, hw, rfl⟩

theorem addressGood_of_accessError {cfg : Cfg} {ea : Word} (h : accessError cfg ea = none) : AddressGood cfg ea := by
  rcases accessError_cases cfg ea with ⟨-, hc⟩ | ⟨-, -, hc⟩ | ⟨halign, hin, -⟩
  · rw [hc] at h; cases h
  · rw [hc] at h; cases h
  · exact ⟨halign, hin⟩

/-- Settles O13: the cases of a Memory stage that raises nothing. -/
theorem memoryStageActs : Obligations.MemoryStageActs := by
  intro s t h hh
  have hm := (commits_of_step h hh).memory
  refine ⟨fun hv => ?_, fun hv hb => ?_, fun hl => ?_⟩
  · rw [memoryStage_of_not_live (exmem_not_live_of_invalid hv), hv] at hm
    obtain ⟨hw, hd⟩ := Prod.mk.inj (Except.ok.inj hm)
    exact ⟨hw.symm, hd.symm⟩
  · rw [memoryStage_of_not_live (by simp [ExMem.live, hb]), hv] at hm
    obtain ⟨hw, hd⟩ := Prod.mk.inj (Except.ok.inj hm)
    exact ⟨hw.symm, hd.symm⟩
  · obtain ⟨hn, -⟩ | ⟨-, hacc, hw, hd⟩ := memoryStage_ok_cases hm
    · exact absurd (hn.symm.trans hl) Bool.false_ne_true
    · exact ⟨hw, hd, fun ha => addressGood_of_accessError (hacc ha)⟩

/-- Settles O14: the cases of the Execute stage. -/
theorem executeStageActs : Obligations.ExecuteStageActs := by
  intro s t h hh
  have hx := (commits_of_step h hh).exmem
  refine ⟨fun hv => ?_, fun hv hb => ?_, fun hl => ?_⟩
  · rw [hx, executeStage_of_not_live (idex_not_live_of_invalid hv), hv, if_neg Bool.false_ne_true]
  · rw [hx, executeStage_of_not_live (by simp [IdEx.live, hb]), hv, if_pos rfl]
  · rw [hx, executeStage_of_live hl]
    rfl

/-- Settles O16: what Decode puts out, and what Fetch makes of the wires. -/
theorem decodeAndFetchAct : Obligations.DecodeAndFetchAct := by
  intro s t h hh
  have hc := commits_of_step h hh
  refine ⟨fun hv => ?_, fun hv hb => ?_, fun hl => ?_, hc.fetched⟩
  · rw [hc.idex, decodeOut_of_not_live (ifid_not_live_of_invalid hv), decodeIdle_eq, hv, if_neg Bool.false_ne_true]
  · rw [hc.idex, decodeOut_of_not_live (by simp [IfId.live, hb]), decodeIdle_eq, hv, if_pos rfl]
  · rw [hc.idex]
    cases hs : stallWire s
    · rw [decodeOut_of_issue hl hs, if_neg Bool.false_ne_true]
    · rw [decodeOut_of_stall hs, if_pos rfl]

/-! ### Any instruction in Decode -/

/-- An instruction that does not stall, in a cycle without a fatal error, commits its own latch. -/
theorem exec_of_issues {i : Instr} {s : State} (h : Issues i s) :
    ∃ t, exec i s = .next t ∧ Commits s (decodeLive s (decOf s.cfg.auipcEn i) (xAfterWb s)) t := by
  obtain ⟨hr, hd, hf, hz⟩ := h
  set o := decodeLive s (decOf s.cfg.auipcEn i) (xAfterWb s) with ho
  cases hfetch : fetchStage s o with
  | none => exact absurd ((fetchStage_eq_none_iff s o).mp hfetch).2 hf
  | some fp =>
    obtain ⟨t, hexec, hc, -⟩ := cycleWith_commits (o := decodeLive s (decOf s.cfg.auipcEn i)) hr hd hfetch
    exact ⟨t, exec_eq_cycleWith i s ▸ hexec, hc⟩

/-- Settles O17: the commit of a cycle whose Decode puts out the instruction's latch. -/
theorem issuedInstructionEntersExecute : Obligations.IssuedInstructionEntersExecute := by
  intro i s h
  obtain ⟨t, hexec, hc⟩ := exec_of_issues h
  obtain ⟨-, -, -, hz⟩ := h
  refine ⟨t, hexec, ?_, hc.exmem, hc.memory, hc.x, hc.cycle, hc.halted, hc.cfg⟩
  rw [hc.idex, decodeLive_of_no_hazard hz]

/-- Settles O18: the commit of a cycle whose Decode puts out the stall bubble; no fetch is made. -/
theorem stallHoldsDecode : Obligations.StallHoldsDecode := by
  intro i s hr hd hz
  have ho := decodeLive_of_hazard hz (xAfterWb s)
  obtain ⟨t, hexec, hc, hi, hp⟩ := cycleWith_commits (o := decodeLive s (decOf s.cfg.auipcEn i)) hr hd
    (fetchStage_of_stall s (by rw [ho]) (by rw [ho]))
  refine ⟨t, exec_eq_cycleWith i s ▸ hexec, ?_, hi, hp, hc.exmem, hc.memory, hc.x, hc.cycle, hc.halted, hc.cfg⟩
  rw [hc.idex, ho]

/-- A control-flow instruction that issues redirects `pc`, flushes the word behind it and enters Execute. -/
theorem exec_of_issues_controlFlow {i : Instr} {s : State} (h : Issues i s)
    (hcf : (decOf s.cfg.auipcEn i).ctrl.isControlFlow = true) :
    ∃ t, exec i s = .next t ∧
      t.pc = redirectOf (resolve s.cfg (decOf s.cfg.auipcEn i) s.ifid.pc s.exmem s.memwb (xAfterWb s)) s.ifid.pc ∧
      t.ifid = flushedFetch s ∧ t.idex = (decOf s.cfg.auipcEn i).latch s.ifid.pc := by
  obtain ⟨t, hexec, hc⟩ := exec_of_issues h
  obtain ⟨-, -, -, hz⟩ := h
  have ho := decodeLive_of_no_hazard hz (xAfterWb s)
  rw [hcf] at ho
  obtain ⟨hi, hp, -⟩ := fetchStage_eq_some (by rw [ho]; exact .inl rfl) hc.fetch
  refine ⟨t, hexec, ?_, ?_, ?_⟩
  · rw [hp, ho]; rfl
  · rw [hi, ho]; rfl
  · rw [hc.idex, ho]

theorem redirectOf_resolveWith_branch (p imm a b : Word) :
    redirectOf (resolveWith .branch p imm a b) p = if a = b then p + imm else p + 4#32 := by
  simp [redirectOf, resolveWith, branchTaken, wordsEqual]

/-- Settles O39: a BRANCH is resolved by the equality of its operands. -/
theorem branchesResolveInDecode : Obligations.BranchesResolveInDecode := by
  intro i rs1 rs2 off f3 s hi h
  have hdec : ∃ f, decOf s.cfg.auipcEn i = decB .branch 0x63#7 f rs1 rs2 off := by
    rcases hi with rfl | rfl
    · exact ⟨_, rfl⟩
    · exact ⟨_, rfl⟩
  obtain ⟨f, hdec⟩ := hdec
  obtain ⟨t, hexec, hp, hf, hx⟩ := exec_of_issues_controlFlow h (by rw [hdec]; rfl)
  refine ⟨t, hexec, ?_, hf, ?_, ?_, ?_⟩
  · rw [hp, hdec]
    exact redirectOf_resolveWith_branch ..
  all_goals rw [hx, hdec]; rfl

/-- Settles O40: a jump is always taken, to its target. -/
theorem jumpsRedirectInDecode : Obligations.JumpsRedirectInDecode := by
  refine ⟨fun rd off s hr hd hf => ?_, fun i rd rs1 imm f3 s hi h => ?_⟩
  · have hissues : Issues (.jal rd off) s := ⟨hr, hd, hf, hazard_of_no_source _ rfl rfl ..⟩
    obtain ⟨t, hexec, hp, hfl, hx⟩ := exec_of_issues_controlFlow hissues rfl
    refine ⟨t, hexec, hp, hfl, ?_⟩
    rw [hx]
    exact ⟨rfl, rfl, rfl, rfl⟩
  · have hdec : ∃ f, decOf s.cfg.auipcEn i = decI .jalr 0x67#7 f rd rs1 imm := by
      rcases hi with rfl | rfl
      · exact ⟨_, rfl⟩
      · exact ⟨_, rfl⟩
    obtain ⟨f, hdec⟩ := hdec
    obtain ⟨t, hexec, hp, hfl, hx⟩ := exec_of_issues_controlFlow h (by rw [hdec]; rfl)
    refine ⟨t, hexec, by rw [hp, hdec]; rfl, hfl, ?_⟩
    rw [hx, hdec]
    exact ⟨rfl, rfl, rfl, rfl⟩

/-- Settles O41: Writeback and the store of the latch in MEM are all a cycle does to registers and memory. -/
theorem decodeCycleFrame : Obligations.DecodeCycleFrame := by
  intro i s t h
  rw [exec_eq_cycleWith] at h
  refine ⟨fun r hr => ?_, fun a ha => ?_, fun hwf => ?_, cycleWith_cfg h⟩
  · rw [cycleWith_x h, readReg_writebackStage, if_neg]
    intro hm
    obtain ⟨-, hl, hw, hrd⟩ := (matchesMemWb_iff r _).mp hm
    exact hr ⟨hl, hw, hrd.symm⟩
  · obtain hd | ⟨hl, hw, hd⟩ := cycleWith_dmem h
    · rw [hd]
    · rw [hd, readByte_writeWord_outside]
      by_contra hin
      exact ha ⟨hl, hw, by omega, by omega⟩
  · obtain hd | ⟨-, -, hd⟩ := cycleWith_dmem h
    · rwa [hd]
    · rw [hd]
      exact writeWord_wf hwf _ _

/-- Settles O43: nothing is in any latch, and word 0 lies at address 0. -/
theorem firstCycleFetchesWordZero : Obligations.FirstCycleFetchesWordZero := by
  intro cfg w rest himem hpc
  set s := State.resetWith cfg
  have hword : ifetch cfg 0#32 = .word w := by simp [ifetch, inBounds, misaligned, imemWord, himem]
  have hf : fetchStage s (decodeIdle s.ifid) = some (⟨true, false, 0#32, w⟩, 4#32) := by
    simp [s, State.resetWith, decodeIdle_eq, fetchStage, hpc, hword, nextPc, inBounds, himem]
  rw [step_eq_cycleWith, cycleWith_of_ok rfl (memoryStage_of_not_live (m := s.exmem) rfl _),
    decodeOut_of_not_live (s := s) rfl, finishCycle_of_some hf]
  rfl

end Sys2Proof.Claims
end

section
/-! Statements that follow cycles through the pipeline: stalls in a row, the occupancy record, operands without
forwarding, the results of Execute by opcode, and the halting cycles (spec/44_pipeline_latch_controller.md R117 to R120,
spec/46_forwarding_unit.md R131, R133, spec/60_exceptions.md R144 to R147). -/

namespace Sys2Proof.Claims

open Sys2Proof.Machine Sys2Proof.Safety

/-! ### Execute by opcode -/

/-- Settles O15: each opcode names its class, and each class has its row. -/
theorem executeResultOfEachClass : Obligations.ExecuteResultOfEachClass := by
  intro cfg e v1 v2 m
  have row {r : Word × Bool} (h : exResult cfg e v1 v2 = r) : m.isEqual = r.2 ∧ m.aluResult = r.1 := by
    rw [← h]
    exact ⟨rfl, rfl⟩
  refine ⟨rfl, fun ho => ?_, fun ho => ?_, fun ho => ?_, fun ho => ?_, fun ho => ?_, fun ho => ?_, fun ho => ?_,
    fun ho => ?_⟩
  · exact row (exResult_op v1 v2 (by rw [ho]; rfl))
  · exact row (exResult_opImm v1 v2 (by rw [ho]; rfl))
  · exact row (exResult_of_access v1 v2 ho)
  · exact row (exResult_branch v1 v2 (by rw [ho]; rfl))
  · rcases ho with ho | ho
    · exact row (exResult_jal v1 v2 (by rw [ho]; rfl))
    · exact row (exResult_jalr v1 v2 (by rw [ho]; rfl))
  · exact row (exResult_lui v1 v2 (by rw [ho]; rfl))
  · cases hen : cfg.auipcEn
    · exact row (exResult_unknown v1 v2 (by rw [ho, hen]; rfl))
    · exact row (exResult_auipc v1 v2 (by rw [ho, hen]; rfl))
  · obtain ⟨h33, h13, h03, h23, h63, h6F, h67, h37, h17⟩ := ho
    exact row (exResult_unknown v1 v2 (by simp [classOf, *]))

/-! ### Forwarding -/

/-- Settles O23: Writeback has written what the MEMWB case would select. -/
theorem secondForwardingCaseIsRedundant : Obligations.SecondForwardingCaseIsRedundant := fwdSelect_writebackStage

theorem operandIn_of_no_forwarding {s : State} (h : s.cfg.fwdEn = false) (r : RegIdx) :
    operandIn s r = readReg (xAfterWb s) r := by
  rw [operandIn, operand, h, if_neg Bool.false_ne_true]

/-- Settles O52: without forwarding an operand is read from the written-back file, which is the next state's; the
clauses by opcode are rows of Execute and of Decode. -/
theorem noForwardingReadsRegisterFile : Obligations.NoForwardingReadsRegisterFile := by
  intro s t hfwd h hh
  have hc := commits_of_step h hh
  have hop (r : RegIdx) : operandIn s r = readReg t.x r := by rw [operandIn_of_no_forwarding hfwd, hc.x]
  have hex (hl : s.idex.live = true) : t.exmem = exLatch s.cfg s.idex
      (if usesRs1 s.idex.opcode then readReg t.x s.idex.rs1 else 0#32)
      (if usesRs2 s.idex.opcode then readReg t.x s.idex.rs2 else 0#32) := by
    rw [hc.exmem, executeStage_of_live hl, ← hop, ← hop]
  have hres : resolve s.cfg (decodedIn s) s.ifid.pc s.exmem s.memwb (xAfterWb s) =
      resolveWith (classOf s.cfg.auipcEn (decodedIn s).opcode) s.ifid.pc (decodedIn s).imm
        (readReg t.x (decodedIn s).rs1) (readReg t.x (decodedIn s).rs2) := by
    rw [resolve, ← hop, ← hop]
  refine ⟨hop, hex, fun _ => hres, fun hl hu => ?_, fun hl ho => ?_, fun _ _ ho => ?_⟩
  · rw [hex hl, hu, if_pos rfl]
    rfl
  · have hu : usesRs1 s.idex.opcode = true := by rcases ho with ho | ho <;> rw [ho] <;> rfl
    rw [hex hl, hu, if_pos rfl]
    exact congrArg Prod.fst (exResult_of_access _ _ ho)
  · have hclass : classOf s.cfg.auipcEn (decodedIn s).opcode = .branch := by
      rw [show (decodedIn s).opcode = 0x63#7 from ho]; rfl
    rw [hres, hclass]
    exact beq_iff_eq

/-! ### Stalls in a row (R127) -/

/-- After a stall nothing is in EX, and what was in EX is in MEM. -/
theorem after_stall {s t : State} (hs : stallWire s = true) (h : step s = .next t) (hh : t.halted = none) :
    t.idex.live = false ∧ t.exmem.live = s.idex.live := by
  have hc := commits_of_step h hh
  refine ⟨?_, by rw [hc.exmem, executeStage_live]⟩
  rw [hc.idex, decodeOut_of_stall hs]
  rfl

/-- Settles O19: two stalls leave nothing in EX and MEM, the only stages a stall waits for. -/
theorem atMostTwoStallsInARow : Obligations.AtMostTwoStallsInARow := by
  intro s s1 s2 hs hstep hh hs1 hstep1 hh1
  obtain ⟨he1, -⟩ := after_stall hs hstep hh
  obtain ⟨he2, hm2⟩ := after_stall hs1 hstep1 hh1
  rw [stallWire, hazard_of_empty he2 (hm2.trans he1), Bool.and_false]

/-! ### The occupancy record (R120) -/

theorem fetchMade_iff (s : State) :
    fetchMade s = true ↔ NoDataError s ∧ stallWire s = false ∧ Fetchable s.cfg s.pc := by
  rw [← memoryRaises_eq_false_iff, Fetchable, ← inBounds_iff]
  simp [fetchMade, and_assoc]

/-- Settles O24: each latch of the next state comes from the stage before it. -/
theorem occupancyAdvances : Obligations.OccupancyAdvances := by
  intro s t h hh
  have hc := commits_of_step h hh
  obtain ⟨hlive, hpc⟩ := memoryStage_ok_live hc.memory
  refine ⟨?_, ?_, ?_, ?_⟩
  · simp only [occupancy, hlive]
    cases hl : s.exmem.live
    · rfl
    · rw [hpc hl]
  · simp only [occupancy, hc.exmem, executeStage_live]
    cases hl : s.idex.live
    · rfl
    · rw [executeStage_of_live hl]; rfl
  · simp only [occupancy, hc.idex]
    rcases decode_cases s with ⟨hi, hs⟩ | ⟨hi, hs⟩ | ⟨hi, hs⟩
    · rw [decodeOut_of_not_live hi, decodeIdle_eq, hi, hs]
      cases s.ifid.valid <;> rfl
    · rw [decodeOut_of_stall hs, hs]; rfl
    · rw [decodeOut_of_issue hi hs, hi, hs]; rfl
  · have hnd : NoDataError s := (noDataError_iff s).mpr ⟨_, _, hc.memory⟩
    obtain ⟨hifid, -, -⟩ := hc.fetched
    cases hs : stallWire s
    case true =>
      rw [hs, if_pos rfl] at hifid
      simp only [occupancy, hifid, if_true]
    case false =>
      have hmade : fetchMade s = true ↔ Fetchable s.cfg s.pc := by
        rw [fetchMade_iff]
        exact ⟨fun h => h.2.2, fun hfe => ⟨hnd, hs, hfe⟩⟩
      rw [hs, if_neg Bool.false_ne_true] at hifid
      simp only [occupancy, hifid, hmade, Bool.false_eq_true, if_false]
      by_cases hfe : Fetchable s.cfg s.pc
      · rw [if_pos hfe, if_pos hfe]
        cases flushWire s <;> rfl
      · rw [if_neg hfe, if_neg hfe]
        cases flushWire s <;> rfl

/-- Settles O51: IF shows `pc` when a fetch is made, which a misaligned one is and one behind a data error is not. -/
theorem occupancyRecordOfACycle : Obligations.OccupancyRecordOfACycle := by
  intro s _
  have hif : (occupancy s).ifPc = if fetchMade s then some s.pc else none := rfl
  refine ⟨?_, fun hne => ?_, rfl, rfl, rfl, rfl, fun t r h hh => ?_⟩
  · rw [← fetchMade_iff, hif]
    cases fetchMade s <;> simp
  · rw [hif] at hne ⊢
    cases hm : fetchMade s
    · rfl
    · rw [hm] at hne
      exact absurd rfl hne
  · rw [hif]
    obtain ⟨code, hm, rfl, -⟩ | ⟨w, dmem, hm, hf, rfl, -⟩ := step_halts h hh
    · have hmade : ¬ fetchMade s = true := fun hmade => by
        obtain ⟨w, dmem, hok⟩ := (noDataError_iff s).mp ((fetchMade_iff s).mp hmade).1
        rw [hm] at hok
        cases hok
      rw [if_neg hmade, if_neg (memoryStage_error_ne_misalignedFetch hm)]
    · obtain ⟨hs, hmis⟩ := (step_fetch_eq_none_iff s).mp hf
      have hmade : fetchMade s = true := (fetchMade_iff s).mpr
        ⟨(noDataError_iff s).mpr ⟨w, dmem, hm⟩, hs, ((ifetch_eq_misaligned_iff _ _).mp hmis).1⟩
      rw [if_pos hmade, if_pos rfl]

/-! ### Halting cycles (R144 to R147) -/

/-- Settles O25: a data error halts every cycle alike, and the codes name the check that failed. -/
theorem dataErrorsHalt : Obligations.DataErrorsHalt := by
  refine ⟨fun s hr hl ha => ?_, fun s t r h hh hcode => ?_⟩
  · intro haltedBy
    have hhalt {code : FatalCode} (he : accessError s.cfg s.exmem.aluResult = some code) (o : RegFile → DecodeOut) :
        cycleWith s o = .next (haltedBy code) := cycleWith_of_error hr (memoryStage_of_error hl ha he _) o
    simp only [step_eq_cycleWith, exec_eq_cycleWith]
    exact ⟨fun hmis => ⟨hhalt (accessError_of_misaligned hmis.1 hmis.2) _,
        fun i => hhalt (accessError_of_misaligned hmis.1 hmis.2) _⟩,
      fun halign hout => ⟨hhalt (accessError_of_out_of_bounds halign hout) _,
        fun i => hhalt (accessError_of_out_of_bounds halign hout) _⟩⟩
  · obtain ⟨code, hm, rfl, -⟩ | ⟨w, dmem, -, -, rfl, -⟩ := step_halts h hh
    · obtain ⟨hl, ha, he⟩ := memoryStage_error_cases hm
      refine ⟨hl, ha, ?_⟩
      rcases accessError_cases s.cfg s.exmem.aluResult with ⟨hmis, hc⟩ | ⟨-, hout, hc⟩ | ⟨-, -, hc⟩ <;> rw [hc] at he
      · obtain rfl := Option.some.inj he
        exact ⟨fun _ => hmis, nofun⟩
      · obtain rfl := Option.some.inj he
        exact ⟨nofun, fun _ => hout⟩
      · cases he
    · exact absurd rfl hcode

/-- Settles O26: the Memory stage has acted, then the fetch that was made is misaligned. -/
theorem misalignedFetchHalts : Obligations.MisalignedFetchHalts := by
  refine ⟨fun s hr hd hs hfe hmis => ?_, fun s t r h hh hcode => ?_⟩
  · obtain ⟨w, dmem, hm⟩ := (noDataError_iff s).mp hd
    have hf := (step_fetch_eq_none_iff s).mpr ⟨hs, (ifetch_eq_misaligned_iff _ _).mpr ⟨hfe, hmis⟩⟩
    have hdmem : dmem = if s.exmem.live = true ∧ s.exmem.ctrl.writesMemory = true then
        writeWord s.dmem (wordIndex s.cfg s.exmem.aluResult) s.exmem.storeData else s.dmem := by
      obtain ⟨hl, -, hsame⟩ | ⟨hl, -, -, hstore⟩ := memoryStage_ok_cases hm
      · simp [hl, hsame]
      · simp [hl, hstore]
    rw [step_eq_cycleWith, cycleWith_of_ok hr hm, finishCycle_of_none hf, hdmem]
    rfl
  · obtain ⟨code, hm, rfl, -⟩ | ⟨w, dmem, hm, hf, rfl, -⟩ := step_halts h hh
    · exact absurd hcode (memoryStage_error_ne_misalignedFetch hm)
    · obtain ⟨hs, hmis⟩ := (step_fetch_eq_none_iff s).mp hf
      exact ⟨(noDataError_iff s).mpr ⟨w, dmem, hm⟩, hs, (ifetch_eq_misaligned_iff _ _).mp hmis⟩

end Sys2Proof.Claims
end
